-- ==== Sys2Proof/Word.lean ====
section
/-! DEFINITION. The bit patterns of the block: addresses, data words, bytes, lengths, command words (spec 00_scope.md
R6, R8; 30_encoding.md R58). -/

namespace Sys2Proof

/-- An Address: 16 bits, `ADDR_WIDTH`, which is fixed (00_scope.md R6, 20_memory.md R37). -/
abbrev Addr := BitVec 16

/-- A DataWord. `DATA_WIDTH` is 8, 16 or 32 (00_scope.md R6); a word of a narrower width is held in the low bits of 32
with the rest zero, and an invariant says that every word of a reachable state fits its width. -/
abbrev Word := BitVec 32

/-- A byte: 8 bits (00_scope.md R8). -/
abbrev Byte := BitVec 8

/-- A buffer length in bytes as a command word carries it: unsigned, `CW[31:0]` (30_encoding.md R61). `LEN_WIDTH` is a
parameter, `Config.lenWidth`. -/
abbrev Len := BitVec 32

/-- A command word: 64 bits, bit 0 the least significant (30_encoding.md R58). -/
abbrev CommandWord := BitVec 64

end Sys2Proof
end

