-- ==== Sys2Proof/Config.lean ====
section
/-! DEFINITION. The configuration constants of the block (spec 00_scope.md R6, R7; 10_state.md R31) and the two
free values of the model: the order of moves possible at one instant (40_execution_model.md R89), and a length that
`LEN_WIDTH` bits cannot hold (30_encoding.md R61). -/

namespace Sys2Proof

/-- `DATA_WIDTH`: a type of three elements, so that no other width can be built (00_scope.md R7). -/
inductive DataWidth where
  | w8
  | w16
  | w32
  deriving DecidableEq, Repr

/-- `DATA_WIDTH` in bits. -/
def DataWidth.bits : DataWidth → Nat
  | .w8 => 8
  | .w16 => 16
  | .w32 => 32

/-- `DATA_BYTES`, `DATA_WIDTH / 8` (00_scope.md R6). -/
def DataWidth.bytes : DataWidth → Nat
  | .w8 => 1
  | .w16 => 2
  | .w32 => 4

/-- `VARIANT`: the pin-accurate hardware or the transaction-level reference variant (00_scope.md R3). -/
inductive Variant where
  | pin
  | txn
  deriving DecidableEq, Repr

/-- The parameters of 00_scope.md R6, fixed before reset and never changed (10_state.md R31). -/
structure Config where
  /-- `ADDR_WIDTH`: 16, fixed (00_scope.md R6); a configuration with another is not admitted. -/
  addrWidth : Nat
  /-- `DATA_WIDTH`. -/
  dataWidth : DataWidth
  /-- `T_SETUP`. -/
  tSetup : Nat
  /-- `T_WHOLD`. -/
  tWHold : Nat
  /-- `T_RHOLD`. -/
  tRHold : Nat
  /-- `T_BACKOFF`. -/
  tBackoff : Nat
  /-- `T_SLAVE`. -/
  tSlave : Nat
  /-- `T_ACKREL`. -/
  tAckRel : Nat
  /-- `T_PULSE`. -/
  tPulse : Nat
  /-- `VARIANT`. -/
  variant : Variant
  /-- `N_SLAVES`. -/
  nSlaves : Nat
  /-- `N_RECV`. -/
  nRecv : Nat
  /-- `LEN_WIDTH`, an open parameter (92_eei_decisions.md D7): the width of a buffer length. The command word carries 32
  bits of one (30_encoding.md R61). -/
  lenWidth : Nat
  /-- `T_TICK`: the clock period of a synchronous implementation (40_execution_model.md R92). -/
  tTick : Nat
  /-- Whether the build is a synchronous implementation, whose receivers have the previous-sample bit of
  44_interrupt.md R144; false for the normative event-driven block (40_execution_model.md R92). -/
  clocked : Bool
  deriving DecidableEq, Repr

/-- The defaults of 00_scope.md R6. `N_SLAVES` and `N_RECV` have no default in the spec: 2 and 2, DESIGN CHOICE, log
entry 1. -/
def Config.default : Config where
  addrWidth := 16
  dataWidth := .w32
  tSetup := 5000
  tWHold := 10000
  tRHold := 15000
  tBackoff := 1000
  tSlave := 12000
  tAckRel := 7000
  tPulse := 5000
  variant := .pin
  nSlaves := 2
  nRecv := 2
  lenWidth := 32
  tTick := 1000
  clocked := false

/-- The seven delays (00_scope.md R6). -/
def Config.delays (c : Config) : List Nat :=
  [c.tSetup, c.tWHold, c.tRHold, c.tBackoff, c.tSlave, c.tAckRel, c.tPulse]

/-- A delay counted in ticks of the synchronous reading (40_execution_model.md R92). -/
def Config.ticks (c : Config) (n : Nat) : Nat := n / c.tTick

/-- A length is a value of `LEN_WIDTH` bits (00_scope.md R8; 10_state.md R28). With a `LEN_WIDTH` of 32 or more every length
of a command word is one (30_encoding.md R61). -/
def Config.lengthFits (c : Config) (n : Len) : Bool := decide (n.toNat < 2 ^ c.lenWidth)

/-- The configurations that are admitted: `ADDR_WIDTH` 16, at least one slave and one receiver (00_scope.md R6); `T_BACKOFF`
at least 1 under PIN (70_reset_and_hazards.md R178, 93_implementation_defined.md U16); for a synchronous implementation a
tick that divides every delay (40_execution_model.md R92). `DATA_WIDTH` is legal by its type (00_scope.md R7), and no rule
bounds `LEN_WIDTH` (30_encoding.md R61). -/
def Config.legal (c : Config) : Bool :=
  c.addrWidth == 16 && decide (1 ≤ c.nSlaves) && decide (1 ≤ c.nRecv) &&
  (c.variant == .txn || decide (1 ≤ c.tBackoff)) &&
  (!c.clocked || (decide (1 ≤ c.tTick) && c.delays.all (fun n => n % c.tTick == 0)))

/-- The free order of the moves possible at one instant (40_execution_model.md R89): applied to the counter `tick` of
the state, it gives a number that picks one of them. It has no body, so no proof can see its value: a claim proved of the
model holds for every order. Free value, log entry 3. -/
opaque Config.pick : Nat → Nat

/-- The free lengths (30_encoding.md R61): applied to the counter `drawn` of the state, one gives what is latched of a length
that `LEN_WIDTH` bits cannot hold. It has no body, so no proof can see its value. Free value, log entry 14. -/
opaque Config.freeLength : Nat → Len

end Sys2Proof
end

