-- ==== Sys2Proof/Syntax.lean ====
section
/-! DEFINITION. The ten operations of the block, one constructor per row of spec/opcode_table.json (30_encoding.md R57,
R60), and the text form of a program (30_encoding.md R67). -/

namespace Sys2Proof

/-- An operation with its operands (30_encoding.md R57). The byte buffer of a link-level operation travels beside the
command word (30_encoding.md R69) and is not part of it. -/
inductive Instr where
  /-- MW, `masterWrite(addr, word)`. -/
  | mw (addr : Addr) (word : Word)
  /-- MR, `masterRead(addr) -> word`. -/
  | mr (addr : Addr)
  /-- SW, `slaveWrite(addr, word)`. -/
  | sw (addr : Addr) (word : Word)
  /-- SR, `slaveRead(addr) -> word`. -/
  | sr (addr : Addr)
  /-- LMW, `MasterWrite(addr, buffer, length)`. -/
  | lmw (addr : Addr) (len : Len)
  /-- LMR, `MasterRead(addr, buffer, length)`. -/
  | lmr (addr : Addr) (len : Len)
  /-- LSW, `SlaveWrite(addr, buffer, length)`. -/
  | lsw (addr : Addr) (len : Len)
  /-- LSR, `SlaveRead(addr, buffer, length)`. -/
  | lsr (addr : Addr) (len : Len)
  /-- ISEND, `send()`. -/
  | isend
  /-- IRECV, `receive()`. -/
  | irecv
  deriving DecidableEq, Repr

/-- The kinds of unit (10_state.md R24). -/
inductive UnitKind where
  | master
  | slave
  | sender
  | receiver
  deriving DecidableEq, Repr

/-- The four formats of a command word (30_encoding.md R59). -/
inductive Format where
  | w
  | a
  | l
  | n
  deriving DecidableEq, Repr

/-- Format of each operation (30_encoding.md R59, R60). -/
def Instr.format : Instr → Format
  | .mw _ _ => .w
  | .mr _ => .a
  | .sw _ _ => .w
  | .sr _ => .a
  | .lmw _ _ => .l
  | .lmr _ _ => .l
  | .lsw _ _ => .l
  | .lsr _ _ => .l
  | .isend => .n
  | .irecv => .n

/-- The kind of unit that accepts each operation (30_encoding.md R60, R62). -/
def Instr.acceptedBy : Instr → UnitKind
  | .mw _ _ => .master
  | .mr _ => .master
  | .sw _ _ => .slave
  | .sr _ => .slave
  | .lmw _ _ => .master
  | .lmr _ _ => .master
  | .lsw _ _ => .slave
  | .lsr _ _ => .slave
  | .isend => .sender
  | .irecv => .receiver

end Sys2Proof
end

