-- ==== Sys2Proof/WellFormed.lean ====
section
/-! DEFINITION. Which operations are well formed for a `DATA_WIDTH`: the word operand of MW and SW has no bit at or above
`DATA_WIDTH` (30_encoding.md R59); every other operand is legal at every value (20_memory.md R44, 30_encoding.md R61). -/

namespace Sys2Proof

/-- The word has no bit at or above `DATA_WIDTH`, that is `arg[31:DATA_WIDTH] = 0` (30_encoding.md R59). -/
def DataWidth.fits (dw : DataWidth) (w : Word) : Bool := decide (w.toNat < 2 ^ dw.bits)

/-- The operation can be given by a command word under `DATA_WIDTH` = `dw`. -/
def WellFormed (dw : DataWidth) : Instr → Bool
  | .mw _ d => dw.fits d
  | .mr _ => true
  | .sw _ d => dw.fits d
  | .sr _ => true
  | .lmw _ _ => true
  | .lmr _ _ => true
  | .lsw _ _ => true
  | .lsr _ _ => true
  | .isend => true
  | .irecv => true

end Sys2Proof
end

