-- ==== Sys2Proof/Decode.lean ====
section
/-! DEFINITION. The decoder of command words, total on every 64-bit value and rejecting by name, and the encoder
(30_encoding.md R58 to R65). The encoding is the spec's own decision D5, D6 (92_eei_decisions.md). -/

namespace Sys2Proof

/-- Why a command word is invalid (30_encoding.md R63). -/
inductive DecodeError where
  /-- `op` is 0xA to 0xF. -/
  | reservedOp
  /-- `rsv` is not zero. -/
  | rsvNotZero
  /-- a must-be-zero part of `arg` is not zero. -/
  | argNotZero
  /-- `addr` is not zero in format N. -/
  | addrNotZero
  /-- the operation is not accepted by the unit it is issued to (30_encoding.md R62). -/
  | wrongUnit
  deriving DecidableEq, Repr

/-- `CW[63:60]`. -/
def CommandWord.op (cw : CommandWord) : BitVec 4 := cw.extractLsb' 60 4

/-- `CW[59:48]`. -/
def CommandWord.rsv (cw : CommandWord) : BitVec 12 := cw.extractLsb' 48 12

/-- `CW[47:32]`. -/
def CommandWord.addr (cw : CommandWord) : Addr := cw.extractLsb' 32 16

/-- `CW[31:0]`. -/
def CommandWord.arg (cw : CommandWord) : BitVec 32 := cw.extractLsb' 0 32

/-- Format W: the address and the data word, `arg[31:DATA_WIDTH]` zero (30_encoding.md R59, R61). -/
def decodeW (dw : DataWidth) (mk : Addr → Word → Instr) (cw : CommandWord) : Except DecodeError Instr :=
  if dw.fits (CommandWord.arg cw) then .ok (mk (CommandWord.addr cw) (CommandWord.arg cw)) else .error .argNotZero

/-- Format A: the address, `arg` zero (30_encoding.md R59). -/
def decodeA (mk : Addr → Instr) (cw : CommandWord) : Except DecodeError Instr :=
  if CommandWord.arg cw = 0 then .ok (mk (CommandWord.addr cw)) else .error .argNotZero

/-- Format L: the address and the length (30_encoding.md R59, R61). -/
def decodeL (mk : Addr → Len → Instr) (cw : CommandWord) : Except DecodeError Instr :=
  .ok (mk (CommandWord.addr cw) (CommandWord.arg cw))

/-- Format N: `addr` and `arg` zero (30_encoding.md R59). -/
def decodeN (i : Instr) (cw : CommandWord) : Except DecodeError Instr :=
  if CommandWord.addr cw ≠ 0 then .error .addrNotZero
  else if CommandWord.arg cw ≠ 0 then .error .argNotZero
  else .ok i

/-- The decoder: the opcode map of 30_encoding.md R60, the formats of R59, the reserved encodings of R63. -/
def decode (dw : DataWidth) (cw : CommandWord) : Except DecodeError Instr :=
  if CommandWord.rsv cw ≠ 0 then .error .rsvNotZero else
  match (CommandWord.op cw).toNat with
  | 0 => decodeW dw .mw cw
  | 1 => decodeA .mr cw
  | 2 => decodeW dw .sw cw
  | 3 => decodeA .sr cw
  | 4 => decodeL .lmw cw
  | 5 => decodeL .lmr cw
  | 6 => decodeL .lsw cw
  | 7 => decodeL .lsr cw
  | 8 => decodeN .isend cw
  | 9 => decodeN .irecv cw
  | _ => .error .reservedOp

/-- What a unit of a given kind makes of a command word: one of its own operations or a named rejection
(30_encoding.md R62, R63, R65). -/
def decodeFor (kind : UnitKind) (dw : DataWidth) (cw : CommandWord) : Except DecodeError Instr :=
  match decode dw cw with
  | .ok i => if i.acceptedBy = kind then .ok i else .error .wrongUnit
  | .error e => .error e

/-- The operation code of each operation (30_encoding.md R60). -/
def Instr.opcode : Instr → BitVec 4
  | .mw _ _ => 0x0
  | .mr _ => 0x1
  | .sw _ _ => 0x2
  | .sr _ => 0x3
  | .lmw _ _ => 0x4
  | .lmr _ _ => 0x5
  | .lsw _ _ => 0x6
  | .lsr _ _ => 0x7
  | .isend => 0x8
  | .irecv => 0x9

/-- The `addr` field of the command word; zero where the format has none (30_encoding.md R59). -/
def Instr.addrField : Instr → Addr
  | .mw a _ => a
  | .mr a => a
  | .sw a _ => a
  | .sr a => a
  | .lmw a _ => a
  | .lmr a _ => a
  | .lsw a _ => a
  | .lsr a _ => a
  | .isend => 0
  | .irecv => 0

/-- The `arg` field of the command word: data word, length or zero (30_encoding.md R59). -/
def Instr.argField : Instr → BitVec 32
  | .mw _ d => d
  | .mr _ => 0
  | .sw _ d => d
  | .sr _ => 0
  | .lmw _ n => n
  | .lmr _ n => n
  | .lsw _ n => n
  | .lsr _ n => n
  | .isend => 0
  | .irecv => 0

/-- The command word of an operation: `op ++ rsv ++ addr ++ arg` (30_encoding.md R58). -/
def encode (i : Instr) : CommandWord := i.opcode ++ (0 : BitVec 12) ++ i.addrField ++ i.argField

/-- The decoder on the opcode table's numbering: bit 0 is the least significant bit of the one 64-bit command word, and
the bits at or above `nbits` are zero. The table's rows are those of `DATA_WIDTH` = 32 (30_encoding.md R65). -/
def decodeTableWord (nbits w : Nat) : Option Instr :=
  match decode .w32 (BitVec.ofNat 64 (w % 2 ^ nbits)) with
  | .ok i => some i
  | .error _ => none

end Sys2Proof
end

