-- ==== Sys2Proof/Machine/State.lean ====
section
/-! DEFINITION. The state of the block as plain data (spec 10_state.md), the reasons a step can stop, and the machine
right after reset (10_state.md R34, 70_reset_and_hazards.md R161). -/

namespace Sys2Proof.Machine

/-! ## Suspension -/

/-- The lines a `wait_until` can wait on (10_state.md R16). -/
inductive Signal where
  | ready
  | ack
  deriving DecidableEq, Repr

/-- The one-shot notices of the TXN variant (10_state.md R17). -/
inductive Notice where
  | readyNotice
  | ackNotice
  deriving DecidableEq, Repr

/-- `SUSP`: why a unit is not running (10_state.md R32). -/
inductive Susp where
  /-- `NONE`: it can run now. -/
  | none
  /-- `UNTIL(t)`: a `waitfor` ending at time `t`. -/
  | until (t : Nat)
  /-- `LEVEL(s, v)`: a `wait_until(s = v)` not yet satisfied. -/
  | level (s : Signal) (v : Bool)
  /-- `EDGE`: a `wait_posedge(intr)`. -/
  | edge
  /-- `NOTICE(e)`: a `wait_notice(e)`. -/
  | notice (e : Notice)
  deriving DecidableEq, Repr

/-! ## Buffers -/

/-- Bytes by index: strictly rising indices, no zero byte listed; an index not listed holds zero (log entry 6). -/
abbrev Memory := List Host.Cell

/-- A byte buffer: how many bytes it has and what they are (20_memory.md R40, 30_encoding.md R69). -/
structure Buffer where
  size : Nat
  mem : Memory
  deriving DecidableEq, Repr

/-- The buffer of no bytes. -/
def Buffer.empty : Buffer := ⟨0, []⟩

/-! ## Command ports -/

/-- One command the host has still to issue: its word, the buffer handed over beside it, and the time before which it is
not issued (30_encoding.md R67, R69; 40_execution_model.md R88). -/
structure Command where
  word : CommandWord
  buf : Buffer
  time : Nat
  deriving DecidableEq, Repr

/-- What an operation returns (30_encoding.md R66, 40_execution_model.md R87). -/
inductive Result where
  /-- nothing but the completion indication: MW, SW, LMW, LSW, ISEND, IRECV. -/
  | nothing
  /-- the word on the result port `Q`: MR, SR. -/
  | word (q : Word)
  /-- the buffer handed back: LMR, LSR. -/
  | buffer (b : Buffer)
  deriving DecidableEq, Repr

/-- A completion: its time, the value of `now` at the `complete` step, and its result (40_execution_model.md R87). -/
structure Completion where
  time : Nat
  result : Result
  deriving DecidableEq, Repr

/-- A unit's command port: what the host has still to issue to it, in order (40_execution_model.md R76, R88), and the
completion indication with the result, presented until the unit's next operation is issued (30_encoding.md R66). -/
structure Port where
  todo : List Command
  done : Option Completion
  deriving DecidableEq, Repr

/-- A port with nothing to issue and no completion indicated. -/
def Port.empty : Port := ⟨[], Option.none⟩

/-! ## Phases -/

/-- The points of MW: `START`, `MW_SETUP`, `MW_WAIT_ACK`, `MW_HOLD`, `MW_WAIT_REL` (10_state.md R27) and `TMW_SETUP`,
`TMW_WAIT_ACK`, `TMW_HOLD` (42_handshake_txn.md R110). -/
inductive MwPoint where
  | start
  | setup
  | waitAck
  | hold
  | waitRel
  | txnSetup
  | txnWaitAck
  | txnHold
  deriving DecidableEq, Repr

/-- The points of MR: `START`, `MR_SETUP`, `MR_WAIT_ACK`, `MR_HOLD`, `MR_WAIT_REL` (10_state.md R27) and `TMR_SETUP`,
`TMR_WAIT_ACK`, `TMR_HOLD` (42_handshake_txn.md R110). -/
inductive MrPoint where
  | start
  | setup
  | waitAck
  | hold
  | waitRel
  | txnSetup
  | txnWaitAck
  | txnHold
  deriving DecidableEq, Repr

/-- `MU.PHASE` (10_state.md R27). The entry point of an operation's pseudocode, `START` in the spec's traces, is a phase
of its own for each operation. -/
inductive MasterPhase where
  /-- `IDLE`. -/
  | idle
  /-- inside MW, issued or called. -/
  | mw (p : MwPoint)
  /-- inside MR, issued or called. -/
  | mr (p : MrPoint)
  /-- the entry point of LMW. -/
  | lmwStart
  /-- the entry point of LMR. -/
  | lmrStart
  deriving DecidableEq, Repr

/-- The points of SR and SW, told apart by `DIR`: `START`, `S_WAIT_READY`, `S_BACKOFF`, `S_SERVICE`, `S_WAIT_REL`,
`S_ACKREL` (10_state.md R27) and `TS_WAIT_READY`, `TS_SERVICE`, `TS_ACKREL` (42_handshake_txn.md R110). -/
inductive SlavePoint where
  | start
  | waitReady
  | backoff
  | service
  | waitRel
  | ackRel
  | txnWaitReady
  | txnService
  | txnAckRel
  deriving DecidableEq, Repr

/-- `SU[k].PHASE` (10_state.md R27). -/
inductive SlavePhase where
  /-- `IDLE`. -/
  | idle
  /-- inside SR or SW, issued or called. -/
  | word (p : SlavePoint)
  /-- the entry point of LSW. -/
  | lswStart
  /-- the entry point of LSR. -/
  | lsrStart
  deriving DecidableEq, Repr

/-- `IS.PHASE`: `IDLE`, `START`, `I_PULSE` (10_state.md R27). -/
inductive SenderPhase where
  | idle
  | start
  | pulse
  deriving DecidableEq, Repr

/-- `IR[j].PHASE`: `IDLE`, `START`, `I_ARMED` (10_state.md R27). -/
inductive ReceiverPhase where
  | idle
  | start
  | armed
  deriving DecidableEq, Repr

/-- `SU[k].DIR` (10_state.md R26). -/
inductive SlaveDir where
  /-- `CAPTURE`: operation SR. -/
  | capture
  /-- `DRIVE`: operation SW. -/
  | drive
  deriving DecidableEq, Repr

/-- `MU.LOP` (10_state.md R28), of the operations `MU` accepts. -/
inductive MasterLop where
  | none
  | lmw
  | lmr
  deriving DecidableEq, Repr

/-- `SU[k].LOP` (10_state.md R28), of the operations `SU[k]` accepts. -/
inductive SlaveLop where
  | none
  | lsw
  | lsr
  deriving DecidableEq, Repr

/-! ## Units -/

/-- The link-level registers of a unit (10_state.md R28), all but `LOP`. -/
structure Link where
  /-- `LADDR`. -/
  laddr : Addr
  /-- `LEN`. -/
  len : Len
  /-- `IDX`, 0 to `LEN`. -/
  idx : Nat
  /-- `ACC`. -/
  acc : Word
  /-- `CNT`, 0 to `DATA_BYTES`. -/
  cnt : Nat
  /-- `BUF`. -/
  buf : Buffer
  deriving DecidableEq, Repr

/-- The link registers at reset: unspecified in the spec (10_state.md R34), zero here, DESIGN CHOICE, log entry 2. -/
def Link.reset : Link := ⟨0, 0, 0, 0, 0, Buffer.empty⟩

/-- The master-side unit `MU` (10_state.md R25, R27, R28, R32). -/
structure MasterUnit where
  phase : MasterPhase
  susp : Susp
  /-- `MU.A`. -/
  a : Addr
  /-- `MU.D`. -/
  d : Word
  /-- `MU.Q`. -/
  q : Word
  lop : MasterLop
  link : Link
  port : Port
  deriving DecidableEq, Repr

/-- A slave-side unit `SU[k]` (10_state.md R26, R27, R28, R32). -/
structure SlaveUnit where
  phase : SlavePhase
  susp : Susp
  /-- `SU[k].A`. -/
  a : Addr
  /-- `SU[k].D`. -/
  d : Word
  /-- `SU[k].Q`. -/
  q : Word
  dir : SlaveDir
  lop : SlaveLop
  link : Link
  port : Port
  deriving DecidableEq, Repr

/-- The interrupt sender `IS` (10_state.md R29). -/
structure SenderUnit where
  phase : SenderPhase
  susp : Susp
  port : Port
  deriving DecidableEq, Repr

/-- An interrupt receiver `IR[j]` (10_state.md R29). `prev` is the previous-sample bit of the synchronous edge detector
(44_interrupt.md R144), read by no operation. -/
structure ReceiverUnit where
  phase : ReceiverPhase
  susp : Susp
  prev : Bool
  port : Port
  deriving DecidableEq, Repr

/-- Which unit (10_state.md R24). -/
inductive UnitId where
  | mu
  | su (k : Nat)
  | is
  | ir (j : Nat)
  deriving DecidableEq, Repr

/-! ## Shared state -/

/-- BusSignals (10_state.md R15). `none` in `address` or `data` is the spec's own state `UNWRITTEN` (10_state.md R22). -/
structure BusSignals where
  ready : Bool
  ack : Bool
  address : Option Addr
  data : Option Word
  deriving DecidableEq, Repr

/-- The value cells of TransactionState (10_state.md R17); `none` is `UNWRITTEN`. The notices hold no value: their
waiters are the units whose `susp` is `notice e`. -/
structure TxnCells where
  pendingAddress : Option Addr
  pendingData : Option Word
  deriving DecidableEq, Repr

/-- The value cells that can be `UNWRITTEN` (10_state.md R22). -/
inductive CellName where
  | address
  | data
  | pendingAddress
  | pendingData
  deriving DecidableEq, Repr

/-- The machine state (40_execution_model.md R76): shared state, units with their ports, time; and the model's own fields,
described in INVENTORY.md. -/
structure State where
  /-- the configuration constants (10_state.md R31), constant during a run. -/
  cfg : Config
  /-- `now` (10_state.md R19). -/
  now : Nat
  /-- `ready`, `ack`, `address`, `data` (10_state.md R15). -/
  bus : BusSignals
  /-- `pendingAddress`, `pendingData` (10_state.md R17). -/
  txn : TxnCells
  /-- `intr` (10_state.md R18). -/
  intr : Bool
  /-- `MU`. -/
  mu : MasterUnit
  /-- `SU[0]`, `SU[1]`, ... -/
  su : List SlaveUnit
  /-- `IS`. -/
  snd : SenderUnit
  /-- `IR[0]`, `IR[1]`, ... -/
  rcv : List ReceiverUnit
  /-- model's own: the unit the present step works on (log entry 4). -/
  sel : UnitId
  /-- model's own: the buffer handed over beside the command being issued (log entry 4). -/
  handed : Buffer
  /-- model's own: a slave-side operation has matched the master's present word-level operation (log entry 5). -/
  served : Bool
  /-- model's own: the units that are to move next, where they can (log entry 3). -/
  agenda : List UnitId
  /-- model's own: how many free choices `Config.pick` has made (log entry 3). -/
  tick : Nat
  /-- model's own: how many lengths have been drawn from the opaque `Config.freeLength` (log entry 14). -/
  drawn : Nat
  deriving DecidableEq, Repr

/-! ## Why a step stops -/

/-- Why the machine stops; none is an event of the block (60_exceptions.md R147). -/
inductive Fault where
  /-- An operation read a cell nothing has driven since reset (10_state.md R22, 93_implementation_defined.md U3). Raised by
  MR at its sample and by SR and SW (and LMR, LSR, LSW through them) at the address test or the capture. Safe. -/
  | unwritten (c : CellName)
  /-- Permanent suspension: no move is possible and the state is not final (40_execution_model.md R90, 60_exceptions.md
  R148). Raised by the step, by no instruction. Safe. -/
  | stuck
  /-- The run is over: no move is possible and the state is final (40_execution_model.md R90). Raised by the step, by no
  instruction. Safe. -/
  | finished
  deriving DecidableEq, Repr

/-- Why the model gives a situation no meaning (60_exceptions.md R147). -/
inductive Refusal where
  /-- An instruction whose meaning is not written yet: raised by `exec`'s arms only. Safe. -/
  | notModelled (mnemonic : String)
  /-- An illegal command word (30_encoding.md R63): raised by the issue of a command. Safe. -/
  | illegalCommand (e : DecodeError)
  /-- A format-L command whose buffer has fewer than `LEN` bytes (93_implementation_defined.md U8): raised by the issue of
  LMW, LMR, LSW, LSR. Safe. -/
  | shortBuffer
  /-- An operation addressed to a unit of a kind that does not accept it (30_encoding.md R62): raised by every meaning. Safe. -/
  | wrongUnit
  /-- A unit the configuration does not have: raised by the meanings of the slave side and of the receiver, and by the
  handing over of a program that names such a unit (the spec is silent on it: DESIGN CHOICE, log entry 9). Safe. -/
  | noSuchUnit
  /-- An operation put to a unit that is carrying out something else: the model has no such move (40_execution_model.md R75,
  R88). Raised by every meaning, never by the step from a consistent state. Safe. -/
  | busy
  /-- A segment of a unit that is not enabled: the model has no such move (40_execution_model.md R78). Raised by every
  meaning, never by the step. Safe. -/
  | notEnabled
  /-- A configuration that is not admitted (00_scope.md R7, 93_implementation_defined.md U16): raised by the step. Safe. -/
  | illegalConfig
  /-- A transfer in the wrong direction (70_reset_and_hazards.md R171, 93_implementation_defined.md U1): raised at the match
  of SR, SW, LSR, LSW. Safe. -/
  | wrongDirection
  /-- Two slave-side operations matched in one transfer (70_reset_and_hazards.md R172, 93_implementation_defined.md U2):
  raised at the match of SR, SW, LSR, LSW. Safe. -/
  | twoMatched
  deriving DecidableEq, Repr

/-- What a move answers. -/
abbrev Answer := Host.Outcome State Fault Refusal

/-! ## Reset -/

/-- `MU` at reset: `IDLE`, `NONE`, `LOP` `NONE`; the operand registers are unspecified in the spec and zero here (10_state.md
R34; DESIGN CHOICE, log entry 2). -/
def MasterUnit.reset : MasterUnit := ⟨.idle, .none, 0, 0, 0, .none, Link.reset, Port.empty⟩

/-- `SU[k]` at reset, as `MU`; `DIR` is unspecified in the spec and `CAPTURE` here (DESIGN CHOICE, log entry 2). -/
def SlaveUnit.reset : SlaveUnit := ⟨.idle, .none, 0, 0, 0, .capture, .none, Link.reset, Port.empty⟩

/-- `IS` at reset (10_state.md R34). -/
def SenderUnit.reset : SenderUnit := ⟨.idle, .none, Port.empty⟩

/-- `IR[j]` at reset; the previous-sample bit is 0 (10_state.md R34). -/
def ReceiverUnit.reset : ReceiverUnit := ⟨.idle, .none, false, Port.empty⟩

/-- The machine right after reset, for any configuration (10_state.md R34, 70_reset_and_hazards.md R161). -/
def State.resetWith (c : Config) : State where
  cfg := c
  now := 0
  bus := ⟨false, false, Option.none, Option.none⟩
  txn := ⟨Option.none, Option.none⟩
  intr := false
  mu := MasterUnit.reset
  su := List.replicate c.nSlaves SlaveUnit.reset
  snd := SenderUnit.reset
  rcv := List.replicate c.nRecv ReceiverUnit.reset
  sel := .mu
  handed := Buffer.empty
  served := false
  agenda := []
  tick := 0
  drawn := 0

/-- The machine right after reset, in the default configuration. -/
def State.reset : State := State.resetWith Config.default

end Sys2Proof.Machine
end

