-- ==== Sys2Proof/Machine/Memory.lean ====
section
/-! DEFINITION. The byte buffer and its two primitives `MemRead` and `MemWrite` (20_memory.md R40, R41). The bus address
space stores nothing (20_memory.md R38), so buffers are the only memory of the block. -/

namespace Sys2Proof.Machine

/-- What an index that is not listed holds. A buffer comes whole from the host, so this is a way of writing buffers down
and no claim about the hardware (log entry 6). -/
def Memory.blank : Byte := 0

/-- The byte at an index. -/
def Memory.read : Memory → Nat → Byte
  | [], _ => Memory.blank
  | (j, c) :: m, i => if j = i then c else Memory.read m i

/-- The canonical form: indices strictly rising, no entry equal to what an index not listed holds. -/
def Memory.wf : Memory → Bool
  | [] => true
  | [(_, b)] => b != Memory.blank
  | (i, b) :: (j, c) :: m => b != Memory.blank && decide (i < j) && Memory.wf ((j, c) :: m)

/-- Puts an entry in front of a memory, or none where the byte is what an index not listed holds. -/
def Memory.cons (i : Nat) (b : Byte) (m : Memory) : Memory := if b = Memory.blank then m else (i, b) :: m

/-- The memory with the byte at one index replaced, in canonical form again. -/
def Memory.write : Memory → Nat → Byte → Memory
  | [], i, b => Memory.cons i b []
  | (j, c) :: m, i, b =>
    if i < j then Memory.cons i b ((j, c) :: m)
    else if i = j then Memory.cons i b m
    else (j, c) :: Memory.write m i b

/-- `MemRead(BUF, i, 1)` (20_memory.md R41). -/
def Buffer.read (b : Buffer) (i : Nat) : Byte := Memory.read b.mem i

/-- `MemWrite(BUF, i, 1, v)` (20_memory.md R41): nothing outside the buffer is ever written. -/
def Buffer.write (b : Buffer) (i : Nat) (v : Byte) : Buffer :=
  if i < b.size then { b with mem := Memory.write b.mem i v } else b

/-- The buffer's bytes are in canonical form and all inside it. -/
def Buffer.wf (b : Buffer) : Bool := Memory.wf b.mem && b.mem.all (fun c => decide (c.1 < b.size))

/-- A buffer of zero bytes. -/
def Buffer.zeros (n : Nat) : Buffer := ⟨n, []⟩

/-- The memory that holds the given bytes from an index on. -/
def Memory.ofBytes : Nat → List Byte → Memory
  | _, [] => []
  | i, b :: bs => Memory.cons i b (Memory.ofBytes (i + 1) bs)

/-- The buffer that holds the given bytes (30_encoding.md R67: the bracketed list). -/
def Buffer.ofBytes (bs : List Byte) : Buffer := ⟨bs.length, Memory.ofBytes 0 bs⟩

/-- The first `n` bytes of a buffer in index order. -/
def Buffer.toBytes (b : Buffer) (n : Nat) : List Byte := (List.range n).map b.read

end Sys2Proof.Machine
end

