-- ==== Sys2Proof/Machine/Flags.lean ====
section
/-! DEFINITION. The three one-bit lines, the block's nearest equivalent of flags (10_state.md R30), the two notices of the
TXN variant, and what a change of them wakes (40_execution_model.md R79, R81, R83, R84). -/

namespace Sys2Proof.Machine

/-- The current value of a line that a `wait_until` can wait on (40_execution_model.md R81). -/
def State.level (s : State) : Signal → Bool
  | .ready => s.bus.ready
  | .ack => s.bus.ack

/-- `drive ready <- v` (40_execution_model.md R79). -/
def State.driveReady (v : Bool) (s : State) : State := { s with bus := { s.bus with ready := v } }

/-- `drive ack <- v` (40_execution_model.md R79). -/
def State.driveAck (v : Bool) (s : State) : State := { s with bus := { s.bus with ack := v } }

/-- The suspension after an event that ends the suspension `w`: `NONE` where it was `w`, else as it was. -/
def Susp.clear (w x : Susp) : Susp := if x = w then .none else x

/-- Sets `SUSP <- NONE` for every unit whose `SUSP` is `w` (40_execution_model.md R83, R84). -/
def State.wake (w : Susp) (s : State) : State :=
  { s with
    mu := { s.mu with susp := Susp.clear w s.mu.susp }
    su := s.su.map (fun u => { u with susp := Susp.clear w u.susp })
    snd := { s.snd with susp := Susp.clear w s.snd.susp }
    rcv := s.rcv.map (fun u => { u with susp := Susp.clear w u.susp }) }

/-- `notify(e)` (40_execution_model.md R84): wakes every unit waiting on `e`; it is lost if there is none. -/
def State.notify (e : Notice) (s : State) : State := s.wake (.notice e)

/-- `drive intr <- v`: a rising edge, that is a write of 1 while the line is 0, wakes every unit suspended on `EDGE`
(40_execution_model.md R83). -/
def State.driveIntr (v : Bool) (s : State) : State :=
  if v && !s.intr then State.wake .edge { s with intr := true } else { s with intr := v }

/-- What the synchronous edge detector of a receiver reports at a sampling point: `intr = 1` and `prev = 0` while it is
armed (44_interrupt.md R144). The event-driven rule is the normative one; no operation uses this. -/
def ReceiverUnit.detects (u : ReceiverUnit) (intr : Bool) : Bool := u.phase == .armed && intr && !u.prev

/-- Whether a sampling point, a whole multiple of the tick, lies in the time from `a` up to but not at `b`. -/
def sampled (tick a b : Nat) : Bool := decide ((a + tick - 1) / tick * tick < b)

/-- The previous-sample bit after the line has held the value `intr` from `a` up to `b` (44_interrupt.md R144): the value at
the last sampling point, whether or not the receiver is armed. Only in a synchronous implementation (log entry 7). -/
def ReceiverUnit.sample (c : Config) (intr : Bool) (a b : Nat) (u : ReceiverUnit) : ReceiverUnit :=
  if c.clocked && sampled c.tTick a b then { u with prev := intr } else u

end Sys2Proof.Machine
end

