-- ==== Sys2Proof/Machine/Operands.lean ====
section
/-! DEFINITION. The operands of the operations: word arithmetic of the media access layer (43_media_access.md R122), its
two loops (43_media_access.md R123, R125), and the value cells of the bus (10_state.md R22). -/

namespace Sys2Proof.Machine

/-! ## Words -/

/-- `trunc_DATA_WIDTH(w)` (00_scope.md R8). -/
def truncWord (dw : DataWidth) (w : Word) : Word := (w.setWidth dw.bits).setWidth 32

/-- `trunc_DATA_WIDTH((ACC << 8) | b)` (43_media_access.md R122, R123). -/
def shiftIn (dw : DataWidth) (acc : Word) (b : Byte) : Word := truncWord dw ((acc <<< 8) ||| b.setWidth 32)

/-- `trunc_DATA_WIDTH(ACC << (8 * (DATA_BYTES - CNT)))`, the zero padding of the final partial word (43_media_access.md
R123, R124). -/
def padWord (dw : DataWidth) (acc : Word) (cnt : Nat) : Word := truncWord dw (acc <<< (8 * (dw.bytes - cnt)))

/-- `ACC[DATA_WIDTH-1 : DATA_WIDTH-8]` (43_media_access.md R122, R125). -/
def topByte (dw : DataWidth) (acc : Word) : Byte := acc.extractLsb' (dw.bits - 8) 8

/-- `trunc_DATA_WIDTH(ACC << 8)` (43_media_access.md R125). -/
def shiftOut (dw : DataWidth) (acc : Word) : Word := truncWord dw (acc <<< 8)

/-- Byte `k` of a word, `k = 0` the most significant (20_memory.md R42, 43_media_access.md R130). -/
def wordByte (dw : DataWidth) (w : Word) (k : Nat) : Byte := w.extractLsb' (8 * (dw.bytes - 1 - k)) 8

/-! ## The write direction (43_media_access.md R123) -/

/-- The body of the loop up to the test of `CNT`: one byte into the accumulator. -/
def Link.packByte (dw : DataWidth) (l : Link) : Link :=
  { l with acc := shiftIn dw l.acc (l.buf.read l.idx), cnt := l.cnt + 1, idx := l.idx + 1 }

/-- The loop, at most `n` bytes: the registers when it calls WRITE (`true`) or has run out of bytes (`false`). -/
def Link.packLoop (dw : DataWidth) : Nat → Link → Link × Bool
  | 0, l => (l, false)
  | n + 1, l =>
    let l' := l.packByte dw
    if l'.cnt = dw.bytes then (l', true) else Link.packLoop dw n l'

/-- From the head of the loop to the next call of WRITE (`true`: the word is `ACC`), full or padded, or to `complete`
(`false`). -/
def Link.nextWrite (dw : DataWidth) (l : Link) : Link × Bool :=
  let r := Link.packLoop dw (l.len.toNat - l.idx) l
  if r.2 then r
  else if r.1.cnt ≠ 0 then ({ r.1 with acc := padWord dw r.1.acc r.1.cnt }, true)
  else r

/-- `IDX <- 0; ACC <- 0; CNT <- 0` and on. -/
def Link.writeEntry (dw : DataWidth) (l : Link) : Link × Bool :=
  Link.nextWrite dw { l with idx := 0, acc := 0, cnt := 0 }

/-- After WRITE returns: in the loop (`CNT = DATA_BYTES`) the accumulator is reset and the loop goes on; after the padded
word the operation completes. -/
def Link.writeReturn (dw : DataWidth) (l : Link) : Link × Bool :=
  if l.cnt = dw.bytes then Link.nextWrite dw { l with acc := 0, cnt := 0 } else (l, false)

/-! ## The read direction (43_media_access.md R125) -/

/-- The body of the loop after the refill test: one byte out of the word buffer. -/
def Link.unpackByte (dw : DataWidth) (l : Link) : Link :=
  { l with buf := l.buf.write l.idx (topByte dw l.acc), acc := shiftOut dw l.acc, idx := l.idx + 1 }

/-- The loop, at most `n` bytes: the registers when it calls READ (`true`) or has filled the buffer (`false`). -/
def Link.unpackLoop (dw : DataWidth) : Nat → Link → Link × Bool
  | 0, l => (l, false)
  | n + 1, l => if l.idx % dw.bytes = 0 then (l, true) else Link.unpackLoop dw n (l.unpackByte dw)

/-- `IDX <- 0` and on to the first call of READ (`true`) or `complete` (`false`). -/
def Link.readEntry (dw : DataWidth) (l : Link) : Link × Bool := Link.unpackLoop dw l.len.toNat { l with idx := 0 }

/-- After READ returns `q`: `ACC <- q`, the rest of the loop's body, and on to the next call of READ (`true`) or `complete`
(`false`). -/
def Link.readReturn (dw : DataWidth) (q : Word) (l : Link) : Link × Bool :=
  let l' := Link.unpackByte dw { l with acc := q }
  Link.unpackLoop dw (l'.len.toNat - l'.idx) l'

/-! ## Value cells -/

/-- `drive address <- a`. -/
def State.driveAddress (a : Addr) (s : State) : State := { s with bus := { s.bus with address := some a } }

/-- `drive data <- d`. -/
def State.driveData (d : Word) (s : State) : State := { s with bus := { s.bus with data := some d } }

/-- `drive pendingAddress <- a`. -/
def State.drivePendingAddress (a : Addr) (s : State) : State :=
  { s with txn := { s.txn with pendingAddress := some a } }

/-- `drive pendingData <- d`. -/
def State.drivePendingData (d : Word) (s : State) : State := { s with txn := { s.txn with pendingData := some d } }

/-- Reads a value cell for the rest of a segment; an `UNWRITTEN` cell is a fault (10_state.md R22, U3). -/
def readCell {α : Type} (c : CellName) (v : Option α) (rest : α → Answer) : Answer :=
  match v with
  | some x => rest x
  | none => .fault (.unwritten c)

end Sys2Proof.Machine
end

