-- ==== Sys2Proof/Machine/Ops.lean ====
section
/-! DEFINITION. The named operations every meaning is written over: reaching a unit, when it is enabled, issuing,
suspending and completing (40_execution_model.md R76 to R87). The block has no exception entry and no return from one
(60_exceptions.md R145, R152), so there is no such operation here. -/

namespace Sys2Proof.Machine

/-! ## Units -/

/-- The state with `MU` replaced. -/
def State.withMu (u : MasterUnit) (s : State) : State := { s with mu := u }

/-- The state with `SU[k]` replaced. -/
def State.withSu (k : Nat) (u : SlaveUnit) (s : State) : State := { s with su := s.su.set k u }

/-- The state with `IS` replaced. -/
def State.withSnd (u : SenderUnit) (s : State) : State := { s with snd := u }

/-- The state with `IR[j]` replaced. -/
def State.withRcv (j : Nat) (u : ReceiverUnit) (s : State) : State := { s with rcv := s.rcv.set j u }

/-- The state with the record of a match set (log entry 5). -/
def State.markServed (v : Bool) (s : State) : State := { s with served := v }

/-- A unit's `SUSP`, where the unit exists. -/
def State.suspOf (s : State) : UnitId → Option Susp
  | .mu => some s.mu.susp
  | .su k => (s.su[k]?).map SlaveUnit.susp
  | .is => some s.snd.susp
  | .ir j => (s.rcv[j]?).map ReceiverUnit.susp

/-- A unit's port, where the unit exists. -/
def State.portOf (s : State) : UnitId → Option Port
  | .mu => some s.mu.port
  | .su k => (s.su[k]?).map SlaveUnit.port
  | .is => some s.snd.port
  | .ir j => (s.rcv[j]?).map ReceiverUnit.port

/-- The units of the block, in a fixed order that nothing depends on. -/
def State.units (s : State) : List UnitId :=
  .mu :: (List.range s.su.length).map UnitId.su ++ .is :: (List.range s.rcv.length).map UnitId.ir

/-- The observer list of a notice or of the interrupt edge: the units suspended on `w` (10_state.md R32). -/
def State.waiters (s : State) (w : Susp) : List UnitId := s.units.filter (fun u => s.suspOf u == some w)

/-- The kind of a unit. -/
def UnitId.kind : UnitId → UnitKind
  | .mu => .master
  | .su _ => .slave
  | .is => .sender
  | .ir _ => .receiver

/-! ## The operation in progress -/

/-- The operation `MU` is carrying out, with its operands as latched; none when it is `IDLE` (10_state.md R27, R28). -/
def MasterUnit.current (u : MasterUnit) : Option Instr :=
  match u.phase with
  | .idle => none
  | .lmwStart => some (.lmw u.link.laddr u.link.len)
  | .lmrStart => some (.lmr u.link.laddr u.link.len)
  | .mw _ =>
    match u.lop with
    | .none => some (.mw u.a u.d)
    | .lmw => some (.lmw u.link.laddr u.link.len)
    | .lmr => some (.lmr u.link.laddr u.link.len)
  | .mr _ =>
    match u.lop with
    | .none => some (.mr u.a)
    | .lmw => some (.lmw u.link.laddr u.link.len)
    | .lmr => some (.lmr u.link.laddr u.link.len)

/-- The operation `SU[k]` is carrying out; none when it is `IDLE` (10_state.md R26, R27, R28). -/
def SlaveUnit.current (u : SlaveUnit) : Option Instr :=
  match u.phase with
  | .idle => none
  | .lswStart => some (.lsw u.link.laddr u.link.len)
  | .lsrStart => some (.lsr u.link.laddr u.link.len)
  | .word _ =>
    match u.lop with
    | .lsw => some (.lsw u.link.laddr u.link.len)
    | .lsr => some (.lsr u.link.laddr u.link.len)
    | .none =>
      match u.dir with
      | .capture => some (.sr u.a)
      | .drive => some (.sw u.a u.d)

/-- The operation `IS` is carrying out. -/
def SenderUnit.current (u : SenderUnit) : Option Instr :=
  match u.phase with
  | .idle => none
  | .start => some .isend
  | .pulse => some .isend

/-- The operation `IR[j]` is carrying out. -/
def ReceiverUnit.current (u : ReceiverUnit) : Option Instr :=
  match u.phase with
  | .idle => none
  | .start => some .irecv
  | .armed => some .irecv

/-- The operation a unit is carrying out. -/
def State.current (s : State) : UnitId → Option Instr
  | .mu => s.mu.current
  | .su k => (s.su[k]?).bind SlaveUnit.current
  | .is => s.snd.current
  | .ir j => (s.rcv[j]?).bind ReceiverUnit.current

/-- Whether a suspension lets its unit run now (40_execution_model.md R76). -/
def Susp.met (w : Susp) (s : State) : Bool :=
  match w with
  | .none => true
  | .until t => t == s.now
  | .level g v => s.level g == v
  | .edge => false
  | .notice _ => false

/-- A unit is enabled: it is not `IDLE` and its `SUSP` lets it run (40_execution_model.md R76). -/
def State.enabled (s : State) (u : UnitId) : Bool :=
  (s.current u).isSome &&
    match s.suspOf u with
    | some w => w.met s
    | none => false

/-! ## Issue (40_execution_model.md R88) -/

/-- A port from the issue of an operation on: no completion indicated (30_encoding.md R66). -/
def Port.begun (p : Port) : Port := { p with done := none }

/-- A port at completion (40_execution_model.md R87). -/
def Port.complete (t : Nat) (r : Result) (p : Port) : Port := { p with done := some ⟨t, r⟩ }

/-- `ISSUE` to a unit: the command word must be legal (30_encoding.md R63), then `latched` is the state with the operands in
the unit's registers. -/
def issue (i : Instr) (latched : State) (s : State) : Answer :=
  if WellFormed s.cfg.dataWidth i then .next latched else .refused (.illegalCommand .argNotZero)

/-- The next free length: any value of `LEN_WIDTH` bits (log entry 14). -/
def State.freeLength (s : State) : Len := BitVec.ofNat 32 ((Config.freeLength s.drawn).toNat % 2 ^ s.cfg.lenWidth)

/-- What `LEN` holds of a command's length (10_state.md R28; 30_encoding.md R61): the length, where it is a value of `LEN_WIDTH`
bits, as every one is with the default; else the spec states no value, and it is a free one (DESIGN CHOICE, log entry 14). -/
def State.latchedLength (n : Len) (s : State) : Len := if s.cfg.lengthFits n then n else s.freeLength

/-- The state with a free length drawn, where the command's length needs one. -/
def State.drawLength (n : Len) (s : State) : State :=
  { s with drawn := if s.cfg.lengthFits n then s.drawn else s.drawn + 1 }

/-- `ISSUE` of a link-level operation: the buffer handed over must have at least as many bytes as the command says
(30_encoding.md R69, U8), then `latched` is the state with the operands in the unit's registers, given what `LEN` holds. -/
def issueLink (n : Len) (latched : Len → State → State) (s : State) : Answer :=
  if n.toNat ≤ s.handed.size then .next (latched (s.latchedLength n) (s.drawLength n)) else .refused .shortBuffer

/-- The link registers that ISSUE writes: `LADDR`, `LEN`, `BUF` (43_media_access.md R123, R125). That `ACC`, `IDX` and `CNT` keep
what an earlier operation left in them is the model's choice, which the spec does not assume (91_not_in_source.md N8): DESIGN
CHOICE, log entry 13. -/
def Link.latch (a : Addr) (n : Len) (b : Buffer) (l : Link) : Link := { l with laddr := a, len := n, buf := b }

/-! ## `MU`: suspending, completing -/

/-- The start of a `RUN` of `MU`: it must be enabled; `SUSP <- NONE` (40_execution_model.md R78). -/
def runMaster (segment : State → Answer) (s : State) : Answer :=
  if s.enabled .mu then segment (s.withMu { s.mu with susp := .none }) else .refused .notEnabled

/-- `MU.PHASE <- p; waitfor(n)` (40_execution_model.md R80). -/
def State.muWaitfor (p : MasterPhase) (n : Nat) (s : State) : State :=
  s.withMu { s.mu with phase := p, susp := .until (s.now + n) }

/-- `MU.PHASE <- p; wait_until(g = v)` and the rest of the segment when it passes at once (40_execution_model.md R81). -/
def muWaitUntil (p : MasterPhase) (g : Signal) (v : Bool) (rest : State → Answer) (s : State) : Answer :=
  if s.level g = v then rest (s.withMu { s.mu with phase := p })
  else .next (s.withMu { s.mu with phase := p, susp := .level g v })

/-- `MU.PHASE <- p; wait_notice(e)` (40_execution_model.md R84). -/
def State.muWaitNotice (p : MasterPhase) (e : Notice) (s : State) : State :=
  s.withMu { s.mu with phase := p, susp := .notice e }

/-- `complete(r)` at the top level on `MU` (40_execution_model.md R87). That the operand and link registers, `ACC` among them,
keep their contents after it is the model's choice (91_not_in_source.md N8): DESIGN CHOICE, log entry 13. -/
def completeMaster (r : Result) (s : State) : Answer :=
  .next (s.withMu
    { s.mu with phase := .idle, susp := .none, lop := .none, port := s.mu.port.complete s.now r })

/-! ## `SU[k]`: suspending, completing -/

/-- Reaches the slave-side unit the step works on. -/
def withSlave (meaning : Nat → SlaveUnit → Answer) (s : State) : Answer :=
  match s.sel with
  | .su k =>
    match s.su[k]? with
    | some u => meaning k u
    | none => .refused .noSuchUnit
  | .mu => .refused .wrongUnit
  | .is => .refused .wrongUnit
  | .ir _ => .refused .wrongUnit

/-- The start of a `RUN` of `SU[k]` (40_execution_model.md R78). -/
def runSlave (k : Nat) (u : SlaveUnit) (segment : SlaveUnit → State → Answer) (s : State) : Answer :=
  if s.enabled (.su k) then segment { u with susp := .none } (s.withSu k { u with susp := .none })
  else .refused .notEnabled

/-- `SU.PHASE <- p; waitfor(n)` (40_execution_model.md R80). -/
def State.suWaitfor (k : Nat) (u : SlaveUnit) (p : SlavePoint) (n : Nat) (s : State) : State :=
  s.withSu k { u with phase := .word p, susp := .until (s.now + n) }

/-- `SU.PHASE <- p` and a suspension on `w`. -/
def State.suSuspend (k : Nat) (u : SlaveUnit) (p : SlavePoint) (w : Susp) (s : State) : State :=
  s.withSu k { u with phase := .word p, susp := w }

/-- `complete(r)` at the top level on `SU[k]` (40_execution_model.md R87). That its registers keep their contents after it is
the model's choice (91_not_in_source.md N8): DESIGN CHOICE, log entry 13. -/
def completeSlave (k : Nat) (r : Result) (u : SlaveUnit) (s : State) : Answer :=
  .next (s.withSu k
    { u with phase := .idle, susp := .none, lop := .none, port := u.port.complete s.now r })

end Sys2Proof.Machine
end

