-- ==== Sys2Proof/Machine/Interrupt.lean ====
section
/-! DEFINITION. ISEND and IRECV on the interrupt units (44_interrupt.md R135 to R143). -/

namespace Sys2Proof.Machine

/-- The start of a `RUN` of `IS` (40_execution_model.md R78). -/
def runSender (segment : State → Answer) (s : State) : Answer :=
  if s.enabled .is then segment (s.withSnd { s.snd with susp := .none }) else .refused .notEnabled

/-- The start of a `RUN` of `IR[j]` (40_execution_model.md R78). -/
def runReceiver (j : Nat) (u : ReceiverUnit) (segment : ReceiverUnit → State → Answer) (s : State) : Answer :=
  if s.enabled (.ir j) then segment { u with susp := .none } (s.withRcv j { u with susp := .none })
  else .refused .notEnabled

/-- `drive intr <- 1`, then `waitfor(T_PULSE)` (R136). -/
def pulseUp (s : State) : Answer :=
  let t := s.driveIntr true
  .next (t.withSnd { t.snd with phase := .pulse, susp := .until (t.now + t.cfg.tPulse) })

/-- `drive intr <- 0`, then `complete()` (R136). -/
def pulseDown (s : State) : Answer :=
  let t := s.driveIntr false
  .next (t.withSnd { t.snd with phase := .idle, susp := .none, port := t.snd.port.complete t.now .nothing })

/-- ISEND, `send()` (R136): issued to an idle `IS`, else its segment at `IS.PHASE`. -/
def execIsend (s : State) : Answer :=
  if s.sel ≠ .is then .refused .wrongUnit else
  match s.snd.phase with
  | .idle => issue .isend (s.withSnd { s.snd with phase := .start, susp := .none, port := s.snd.port.begun }) s
  | .start => runSender pulseUp s
  | .pulse => runSender pulseDown s

/-- `IR[j].PHASE <- I_ARMED; wait_posedge(intr)`: it always suspends (R137, R139). -/
def armReceiver (j : Nat) (u : ReceiverUnit) (s : State) : Answer :=
  .next (s.withRcv j { u with phase := .armed, susp := .edge })

/-- `complete()` on `IR[j]` (R137). -/
def completeReceiver (j : Nat) (u : ReceiverUnit) (s : State) : Answer :=
  .next (s.withRcv j { u with phase := .idle, susp := .none, port := u.port.complete s.now .nothing })

/-- Reaches the receiver the step works on. -/
def withReceiver (meaning : Nat → ReceiverUnit → Answer) (s : State) : Answer :=
  match s.sel with
  | .ir j =>
    match s.rcv[j]? with
    | some u => meaning j u
    | none => .refused .noSuchUnit
  | .mu => .refused .wrongUnit
  | .su _ => .refused .wrongUnit
  | .is => .refused .wrongUnit

/-- IRECV, `receive()` (R137): issued to an idle `IR[j]`, else its segment at `IR[j].PHASE`. -/
def execIrecv (s : State) : Answer :=
  withReceiver (fun j u =>
    match u.phase with
    | .idle => issue .irecv (s.withRcv j { u with phase := .start, susp := .none, port := u.port.begun }) s
    | .start => runReceiver j u (armReceiver j) s
    | .armed => runReceiver j u (completeReceiver j) s) s

end Sys2Proof.Machine
end

