-- ==== Sys2Proof/Machine/Master.lean ====
section
/-! DEFINITION. MW and MR on the master-side unit: the pin-accurate segments (41_handshake_pin.md R94, R95), those of the
TXN variant (42_handshake_txn.md R111, R112), and the two meanings. `ret` is what happens when the word-level operation
completes: the end of the operation, or the return into the link-level operation that called it (40_execution_model.md
R86). -/

namespace Sys2Proof.Machine

/-! ## MW -/

/-- MW from its first line to its first suspension (R94; TXN R111). A new word-level operation of the master has met no
slave-side operation yet (log entry 5). -/
def mwBegin (s : State) : State :=
  match s.cfg.variant with
  | .pin =>
    (((s.markServed false).driveAddress s.mu.a).driveData s.mu.d).muWaitfor (.mw .setup) s.cfg.tSetup
  | .txn =>
    (((s.markServed false).drivePendingAddress s.mu.a).drivePendingData s.mu.d).muWaitfor (.mw .txnSetup) s.cfg.tSetup

/-- MW from `wait_until(ack = 0)` on. -/
def mwRelease (ret : State → Answer) (s : State) : Answer := muWaitUntil (.mw .waitRel) .ack false ret s

/-- MW from `wait_until(ack = 1)` on. -/
def mwAwaitAck (s : State) : Answer :=
  muWaitUntil (.mw .waitAck) .ack true (fun t => .next (t.muWaitfor (.mw .hold) t.cfg.tWHold)) s

/-- MW from each of its points to the next suspension or the end (R94; TXN R111). -/
def mwSegment (ret : State → Answer) (p : MwPoint) (s : State) : Answer :=
  match p with
  | .start => .next (mwBegin s)
  | .setup => mwAwaitAck (s.driveReady true)
  | .waitAck => mwAwaitAck s
  | .hold => mwRelease ret (s.driveReady false)
  | .waitRel => mwRelease ret s
  | .txnSetup => .next ((s.notify .readyNotice).muWaitNotice (.mw .txnWaitAck) .ackNotice)
  | .txnWaitAck => .next (s.muWaitfor (.mw .txnHold) s.cfg.tWHold)
  | .txnHold => ret s

/-! ## MR -/

/-- MR from its first line to its first suspension (R95; TXN R112). -/
def mrBegin (s : State) : State :=
  match s.cfg.variant with
  | .pin => ((s.markServed false).driveAddress s.mu.a).muWaitfor (.mr .setup) s.cfg.tSetup
  | .txn => ((s.markServed false).drivePendingAddress s.mu.a).muWaitfor (.mr .txnSetup) s.cfg.tSetup

/-- MR from `wait_until(ack = 0)` on. -/
def mrRelease (ret : State → Answer) (s : State) : Answer := muWaitUntil (.mr .waitRel) .ack false ret s

/-- MR's sample of the word into `MU.Q` and the hold after it. -/
def mrSample (c : CellName) (cell : Option Word) (p : MrPoint) (s : State) : Answer :=
  readCell c cell (fun w => .next ((s.withMu { s.mu with q := w }).muWaitfor (.mr p) s.cfg.tRHold))

/-- MR from `wait_until(ack = 1)` on: the sample is in the segment that observes `ack = 1` (R95). -/
def mrAwaitAck (s : State) : Answer :=
  muWaitUntil (.mr .waitAck) .ack true (fun t => mrSample .data t.bus.data .hold t) s

/-- MR from each of its points to the next suspension or the end (R95; TXN R112). -/
def mrSegment (ret : State → Answer) (p : MrPoint) (s : State) : Answer :=
  match p with
  | .start => .next (mrBegin s)
  | .setup => mrAwaitAck (s.driveReady true)
  | .waitAck => mrAwaitAck s
  | .hold => mrRelease ret (s.driveReady false)
  | .waitRel => mrRelease ret s
  | .txnSetup => .next ((s.notify .readyNotice).muWaitNotice (.mr .txnWaitAck) .ackNotice)
  | .txnWaitAck => mrSample .pendingData s.txn.pendingData .txnHold s
  | .txnHold => ret s

/-! ## The meanings -/

/-- MW, `masterWrite` (R94; TXN R111): issued to an idle `MU`, else its segment at `MU.PHASE`. -/
def execMw (a : Addr) (d : Word) (s : State) : Answer :=
  if s.sel ≠ .mu then .refused .wrongUnit else
  match s.mu.phase with
  | .idle =>
    issue (.mw a d)
      (s.withMu { s.mu with phase := .mw .start, susp := .none, a := a, d := d, port := s.mu.port.begun }) s
  | .mw p =>
    if s.mu.current = some (.mw a d) then runMaster (mwSegment (completeMaster .nothing) p) s else .refused .busy
  | .mr _ => .refused .busy
  | .lmwStart => .refused .busy
  | .lmrStart => .refused .busy

/-- MR, `masterRead` (R95; TXN R112): issued to an idle `MU`, else its segment at `MU.PHASE`; it returns `MU.Q`. -/
def execMr (a : Addr) (s : State) : Answer :=
  if s.sel ≠ .mu then .refused .wrongUnit else
  match s.mu.phase with
  | .idle =>
    issue (.mr a) (s.withMu { s.mu with phase := .mr .start, susp := .none, a := a, port := s.mu.port.begun }) s
  | .mr p =>
    if s.mu.current = some (.mr a) then runMaster (mrSegment (fun t => completeMaster (.word t.mu.q) t) p) s
    else .refused .busy
  | .mw _ => .refused .busy
  | .lmwStart => .refused .busy
  | .lmrStart => .refused .busy

end Sys2Proof.Machine
end

