-- ==== Sys2Proof/Machine/Slave.lean ====
section
/-! DEFINITION. SR and SW on a slave-side unit: the pin-accurate segments (41_handshake_pin.md R96 to R99), those of the
TXN variant (42_handshake_txn.md R113 to R115), and the two meanings. SR captures and pairs with MW, SW drives and pairs
with MR (90_conflicts.md C1). -/

namespace Sys2Proof.Machine

/-- The direction a slave-side operation must have to pair with the master's present word-level operation (70_reset_and_hazards.md
R170): SR with MW, SW with MR. -/
def MasterUnit.pairs (u : MasterUnit) : Option SlaveDir :=
  match u.phase with
  | .mw _ => some .capture
  | .mr _ => some .drive
  | .idle => none
  | .lmwStart => none
  | .lmrStart => none

/-- A match. A second match in one transfer, or a match in the wrong direction, gives the run no meaning
(70_reset_and_hazards.md R171, R172; 93_implementation_defined.md U1, U2); else the record of the match is set and the
segment goes on. -/
def takeMatch (dir : SlaveDir) (rest : State → State) (s : State) : Answer :=
  if s.served then .refused .twoMatched
  else if s.mu.pairs = some dir ∨ s.mu.pairs = none then .next (rest (s.markServed true))
  else .refused .wrongDirection

/-- A matched pass of PIN: capture `data` or drive it, then `waitfor(T_SLAVE)` (R96, R97). -/
def servePin (k : Nat) (u : SlaveUnit) (s : State) : Answer :=
  match u.dir with
  | .capture =>
    readCell .data s.bus.data (fun w =>
      takeMatch .capture (fun t => t.suWaitfor k { u with q := w } .service t.cfg.tSlave) s)
  | .drive => takeMatch .drive (fun t => (t.driveData u.d).suWaitfor k u .service t.cfg.tSlave) s

/-- The address test of PIN, in the segment that observes `ready = 1` (R98): a mismatch backs off and writes nothing
(R99). -/
def testPin (k : Nat) (u : SlaveUnit) (s : State) : Answer :=
  readCell .address s.bus.address (fun x =>
    if x = u.a then servePin k u s else .next (s.suWaitfor k u .backoff s.cfg.tBackoff))

/-- `retry:` the point "awaiting matching address" (R96, R98). -/
def suAwaitReady (k : Nat) (u : SlaveUnit) (s : State) : Answer :=
  if s.bus.ready = true then testPin k u s else .next (s.suSuspend k u .waitReady (.level .ready true))

/-- From `wait_until(ready = 0)` on. -/
def suAwaitRelease (k : Nat) (u : SlaveUnit) (s : State) : Answer :=
  if s.bus.ready = false then .next (s.suWaitfor k u .ackRel s.cfg.tAckRel)
  else .next (s.suSuspend k u .waitRel (.level .ready false))

/-- A matched pass of TXN: capture `pendingData` or drive it, then `waitfor(T_SLAVE)` (R113, R114). -/
def serveTxn (k : Nat) (u : SlaveUnit) (s : State) : Answer :=
  match u.dir with
  | .capture =>
    readCell .pendingData s.txn.pendingData (fun w =>
      takeMatch .capture (fun t => t.suWaitfor k { u with q := w } .txnService t.cfg.tSlave) s)
  | .drive => takeMatch .drive (fun t => (t.drivePendingData u.d).suWaitfor k u .txnService t.cfg.tSlave) s

/-- The address test of TXN: a mismatch waits for the next notice, with no backoff (R113, R115). -/
def testTxn (k : Nat) (u : SlaveUnit) (s : State) : Answer :=
  readCell .pendingAddress s.txn.pendingAddress (fun x =>
    if x = u.a then serveTxn k u s else .next (s.suSuspend k u .txnWaitReady (.notice .readyNotice)))

/-- SR or SW from its first line to its first suspension. -/
def slaveBegin (k : Nat) (u : SlaveUnit) (s : State) : Answer :=
  match s.cfg.variant with
  | .pin => suAwaitReady k u s
  | .txn => .next (s.suSuspend k u .txnWaitReady (.notice .readyNotice))

/-- SR or SW from each of its points to the next suspension or the end (R96, R97; TXN R113, R114). `ret` is what happens
when the word-level operation completes. -/
def slaveSegment (k : Nat) (ret : SlaveUnit → State → Answer) (p : SlavePoint) (u : SlaveUnit) (s : State) : Answer :=
  match p with
  | .start => slaveBegin k u s
  | .waitReady => suAwaitReady k u s
  | .backoff => suAwaitReady k u s
  | .service => suAwaitRelease k u (s.driveAck true)
  | .waitRel => suAwaitRelease k u s
  | .ackRel => ret u (s.driveAck false)
  | .txnWaitReady => testTxn k u s
  | .txnService => .next (s.suWaitfor k u .txnAckRel s.cfg.tAckRel)
  | .txnAckRel => ret u (s.notify .ackNotice)

/-- SR, `slaveRead` (R96; TXN R113): issued to an idle `SU[k]`, else its segment at `SU[k].PHASE`; it returns `SU[k].Q`. -/
def execSr (a : Addr) (s : State) : Answer :=
  withSlave (fun k u =>
    match u.phase with
    | .idle =>
      issue (.sr a)
        (s.withSu k { u with phase := .word .start, susp := .none, a := a, dir := .capture, port := u.port.begun }) s
    | .word p =>
      if u.current = some (.sr a) then
        runSlave k u (slaveSegment k (fun v t => completeSlave k (.word v.q) v t) p) s
      else .refused .busy
    | .lswStart => .refused .busy
    | .lsrStart => .refused .busy) s

/-- SW, `slaveWrite` (R97; TXN R114): issued to an idle `SU[k]`, else its segment at `SU[k].PHASE`. -/
def execSw (a : Addr) (d : Word) (s : State) : Answer :=
  withSlave (fun k u =>
    match u.phase with
    | .idle =>
      issue (.sw a d)
        (s.withSu k
          { u with phase := .word .start, susp := .none, a := a, d := d, dir := .drive, port := u.port.begun }) s
    | .word p =>
      if u.current = some (.sw a d) then runSlave k u (slaveSegment k (completeSlave k .nothing) p) s
      else .refused .busy
    | .lswStart => .refused .busy
    | .lsrStart => .refused .busy) s

end Sys2Proof.Machine
end

