-- ==== Sys2Proof/Machine/LinkLevel.lean ====
section
/-! DEFINITION. The media access layer: LMW, LMR, LSW, LSR (43_media_access.md R121 to R134). Each runs its loop to the next
call of the word-level operation of its unit and goes on with the word-level segment at once (40_execution_model.md R86);
it never touches a signal itself (43_media_access.md R121). -/

namespace Sys2Proof.Machine

/-! ## `MU` -/

/-- LMW goes on: `call MW(LADDR, ACC)`, or `complete()` (R123). -/
def lmwContinue (r : Link × Bool) (s : State) : Answer :=
  if r.2 then .next (mwBegin (s.withMu { s.mu with link := r.1, a := r.1.laddr, d := r.1.acc }))
  else completeMaster .nothing (s.withMu { s.mu with link := r.1 })

/-- LMW after its MW returns (R123). -/
def lmwReturn (s : State) : Answer := lmwContinue (s.mu.link.writeReturn s.cfg.dataWidth) s

/-- LMR goes on: `call MR(LADDR)`, or `complete()` with the buffer (R125). -/
def lmrContinue (r : Link × Bool) (s : State) : Answer :=
  if r.2 then .next (mrBegin (s.withMu { s.mu with link := r.1, a := r.1.laddr }))
  else completeMaster (.buffer r.1.buf) (s.withMu { s.mu with link := r.1 })

/-- LMR after its MR returns `MU.Q` (R125). -/
def lmrReturn (s : State) : Answer := lmrContinue (s.mu.link.readReturn s.cfg.dataWidth s.mu.q) s

/-- LMW, `MasterWrite` (R123): issued to an idle `MU`, else its segment at the unit's position. -/
def execLmw (a : Addr) (n : Len) (s : State) : Answer :=
  if s.sel ≠ .mu then .refused .wrongUnit else
  match s.mu.phase with
  | .idle =>
    issueLink n
      (fun m t => t.withMu { t.mu with
        phase := .lmwStart, susp := .none, lop := .lmw, link := t.mu.link.latch a m t.handed, port := t.mu.port.begun }) s
  | .lmwStart =>
    if s.mu.current = some (.lmw a n) then
      runMaster (fun t => lmwContinue (t.mu.link.writeEntry t.cfg.dataWidth) t) s
    else .refused .busy
  | .mw p => if s.mu.current = some (.lmw a n) then runMaster (mwSegment lmwReturn p) s else .refused .busy
  | .mr _ => .refused .busy
  | .lmrStart => .refused .busy

/-- LMR, `MasterRead` (R125): issued to an idle `MU`, else its segment at the unit's position. -/
def execLmr (a : Addr) (n : Len) (s : State) : Answer :=
  if s.sel ≠ .mu then .refused .wrongUnit else
  match s.mu.phase with
  | .idle =>
    issueLink n
      (fun m t => t.withMu { t.mu with
        phase := .lmrStart, susp := .none, lop := .lmr, link := t.mu.link.latch a m t.handed, port := t.mu.port.begun }) s
  | .lmrStart =>
    if s.mu.current = some (.lmr a n) then
      runMaster (fun t => lmrContinue (t.mu.link.readEntry t.cfg.dataWidth) t) s
    else .refused .busy
  | .mr p => if s.mu.current = some (.lmr a n) then runMaster (mrSegment lmrReturn p) s else .refused .busy
  | .mw _ => .refused .busy
  | .lmwStart => .refused .busy

/-! ## `SU[k]` -/

/-- LSW goes on: `call SW(LADDR, ACC)`, or `complete()` (R127). -/
def lswContinue (k : Nat) (r : Link × Bool) (u : SlaveUnit) (s : State) : Answer :=
  if r.2 then slaveBegin k { u with link := r.1, a := r.1.laddr, dir := .drive, d := r.1.acc } s
  else completeSlave k .nothing { u with link := r.1 } s

/-- LSW after its SW returns (R127). -/
def lswReturn (k : Nat) (u : SlaveUnit) (s : State) : Answer := lswContinue k (u.link.writeReturn s.cfg.dataWidth) u s

/-- LSR goes on: `call SR(LADDR)`, or `complete()` with the buffer (R128). -/
def lsrContinue (k : Nat) (r : Link × Bool) (u : SlaveUnit) (s : State) : Answer :=
  if r.2 then slaveBegin k { u with link := r.1, a := r.1.laddr, dir := .capture } s
  else completeSlave k (.buffer r.1.buf) { u with link := r.1 } s

/-- LSR after its SR returns `SU[k].Q` (R128). -/
def lsrReturn (k : Nat) (u : SlaveUnit) (s : State) : Answer :=
  lsrContinue k (u.link.readReturn s.cfg.dataWidth u.q) u s

/-- LSW, `SlaveWrite` (R127): issued to an idle `SU[k]`, else its segment at the unit's position. -/
def execLsw (a : Addr) (n : Len) (s : State) : Answer :=
  withSlave (fun k u =>
    match u.phase with
    | .idle =>
      issueLink n
        (fun m t => t.withSu k { u with
          phase := .lswStart, susp := .none, lop := .lsw, link := u.link.latch a m t.handed, port := u.port.begun }) s
    | .lswStart =>
      if u.current = some (.lsw a n) then
        runSlave k u (fun v t => lswContinue k (v.link.writeEntry t.cfg.dataWidth) v t) s
      else .refused .busy
    | .word p =>
      if u.current = some (.lsw a n) then runSlave k u (slaveSegment k (lswReturn k) p) s else .refused .busy
    | .lsrStart => .refused .busy) s

/-- LSR, `SlaveRead` (R128): issued to an idle `SU[k]`, else its segment at the unit's position. -/
def execLsr (a : Addr) (n : Len) (s : State) : Answer :=
  withSlave (fun k u =>
    match u.phase with
    | .idle =>
      issueLink n
        (fun m t => t.withSu k { u with
          phase := .lsrStart, susp := .none, lop := .lsr, link := u.link.latch a m t.handed, port := u.port.begun }) s
    | .lsrStart =>
      if u.current = some (.lsr a n) then
        runSlave k u (fun v t => lsrContinue k (v.link.readEntry t.cfg.dataWidth) v t) s
      else .refused .busy
    | .word p =>
      if u.current = some (.lsr a n) then runSlave k u (slaveSegment k (lsrReturn k) p) s else .refused .busy
    | .lswStart => .refused .busy) s

end Sys2Proof.Machine
end

