-- ==== Sys2Proof/Machine/Dispatch.lean ====
section
/-! DEFINITION. One arm per operation (30_encoding.md R60): the move of the operation on the unit the step works on, that
is its ISSUE when the unit is idle, else the segment at the unit's PHASE (40_execution_model.md R77, R78). -/

namespace Sys2Proof.Machine

def exec (i : Instr) (s : State) : Host.Outcome State Fault Refusal :=
  match i with
  | .mw a d => Sys2Proof.Machine.execMw a d s
  | .mr a => Sys2Proof.Machine.execMr a s
  | .sw a d => Sys2Proof.Machine.execSw a d s
  | .sr a => Sys2Proof.Machine.execSr a s
  | .lmw a n => Sys2Proof.Machine.execLmw a n s
  | .lmr a n => Sys2Proof.Machine.execLmr a n s
  | .lsw a n => Sys2Proof.Machine.execLsw a n s
  | .lsr a n => Sys2Proof.Machine.execLsr a n s
  | .isend => Sys2Proof.Machine.execIsend s
  | .irecv => Sys2Proof.Machine.execIrecv s

end Sys2Proof.Machine
end

