-- ==== Sys2Proof/Machine/Schedule.lean ====
section
/-! DEFINITION. Which move comes next and what it is: ISSUE, RUN and ADVANCE (40_execution_model.md R77), the free order
(R89), urgency (R85), the end of a run (R90); and the program the host hands over (30_encoding.md R67). -/

namespace Sys2Proof.Machine

/-! ## Moves of the units -/

/-- The command the host must issue to a unit now: the unit is `IDLE`, every earlier command of its list has completed,
and `now` is at least the command's time (40_execution_model.md R88). -/
def State.dueCommand (s : State) (u : UnitId) : Option Command :=
  if (s.current u).isSome then none
  else
    match s.portOf u with
    | none => none
    | some p =>
      match p.todo with
      | [] => none
      | c :: _ => if c.time ≤ s.now then some c else none

/-- A unit can move: it is enabled (RUN), or a command is due for it (ISSUE). -/
def State.movable (s : State) (u : UnitId) : Bool := s.enabled u || (s.dueCommand u).isSome

/-- The units that can move at this instant; every one of them may come first (40_execution_model.md R89). -/
def State.moves (s : State) : List UnitId := s.units.filter s.movable

/-- The unit's port without its first command. -/
def Port.pop (p : Port) : Port := { p with todo := p.todo.tail }

/-- The state with the first command of a unit's list taken off it. -/
def State.popCommand (u : UnitId) (s : State) : State :=
  match u with
  | .mu => s.withMu { s.mu with port := s.mu.port.pop }
  | .su k =>
    match s.su[k]? with
    | some v => s.withSu k { v with port := v.port.pop }
    | none => s
  | .is => s.withSnd { s.snd with port := s.snd.port.pop }
  | .ir j =>
    match s.rcv[j]? with
    | some v => s.withRcv j { v with port := v.port.pop }
    | none => s

/-- The state with the unit selected that the step works on (log entry 4). -/
def State.select (u : UnitId) (s : State) : State := { s with sel := u }

/-- The state with a command presented on a unit's port: taken off the list, its buffer handed over (30_encoding.md R69). -/
def State.present (u : UnitId) (c : Command) (s : State) : State := { (s.popCommand u).select u with handed := c.buf }

/-- `ISSUE(U, cmd)` (40_execution_model.md R88): the word is decoded as the unit's kind decodes it; an invalid word is
refused (30_encoding.md R63). -/
def issueMove (u : UnitId) (c : Command) (s : State) : Answer :=
  match decodeFor u.kind s.cfg.dataWidth c.word with
  | .ok i => exec i (s.present u c)
  | .error e => .refused (.illegalCommand e)

/-- The move of a unit: the next segment of its operation, or the issue of the command that is due. -/
def move (u : UnitId) (s : State) : Answer :=
  match s.current u with
  | some i => exec i (s.select u)
  | none =>
    match s.dueCommand u with
    | some c => issueMove u c s
    | none => .refused .noSuchUnit

/-! ## The free order -/

/-- Which of several units moves, by the opaque `Config.pick` (log entry 3). -/
def State.pickFrom (us : List UnitId) (s : State) : Option (UnitId × State) :=
  (us[Config.pick s.tick % us.length]?).map (fun u => (u, { s with tick := s.tick + 1 }))

/-- Which of the units that can move comes first: the agenda's first where it is one of them; the only one where there is
one; else a free choice (40_execution_model.md R89, log entry 3). -/
def State.choose (s : State) : Option (UnitId × State) :=
  match s.moves with
  | [] => none
  | v :: vs =>
    match s.agenda with
    | u :: rest =>
      if u ∈ v :: vs then some (u, { s with agenda := rest })
      else if vs = [] then some (v, s) else s.pickFrom (v :: vs)
    | [] => if vs = [] then some (v, s) else s.pickFrom (v :: vs)

/-! ## Time -/

/-- The times at which something is to happen: the ends of the `waitfor`s and the times of the commands still to be issued
(40_execution_model.md R85). -/
def State.eventTimes (s : State) : List Nat :=
  s.units.flatMap (fun u =>
    (match s.suspOf u with
     | some (.until t) => [t]
     | _ => []) ++
    (match s.portOf u with
     | some p => p.todo.map Command.time
     | none => []))

/-- The least element of a list above a bound. -/
def leastAbove (b : Nat) : List Nat → Option Nat
  | [] => none
  | t :: ts =>
    match leastAbove b ts with
    | none => if b < t then some t else none
    | some m => if b < t ∧ t < m then some t else some m

/-- The time `ADVANCE` goes to (40_execution_model.md R85). -/
def State.nextTime (s : State) : Option Nat := leastAbove s.now s.eventTimes

/-- `ADVANCE`: `now` becomes the given time and nothing else changes (40_execution_model.md R85); in a synchronous
implementation, and only there, the hidden previous-sample bits sample the line (44_interrupt.md R144, log entry 7). -/
def State.advance (t : Nat) (s : State) : State :=
  { s with now := t, rcv := s.rcv.map (ReceiverUnit.sample s.cfg s.intr s.now t) }

/-- Every unit is `IDLE` and the host has issued every command (40_execution_model.md R90). -/
def State.allDone (s : State) : Bool :=
  s.units.all (fun u => (s.current u).isNone &&
    match s.portOf u with
    | some p => p.todo.isEmpty
    | none => true)

/-- One step: a unit's move if any can move, else time advances if it can, else the run is over or permanently suspended
(40_execution_model.md R77, R85, R89, R90). -/
def stepOnce (s : State) : Answer :=
  if s.cfg.legal then
    match s.choose with
    | some (u, t) => move u t
    | none =>
      match s.nextTime with
      | some t => .next (s.advance t)
      | none => if s.allDone then .fault .finished else .fault .stuck
  else .refused .illegalConfig

/-! ## The host's program (30_encoding.md R67, 40_execution_model.md R88) -/

/-- The port with commands added at the end of its list. -/
def Port.add (cs : List Command) (p : Port) : Port := { p with todo := p.todo ++ cs }

/-- The host's list for a unit is extended by some commands. Commands for a unit the configuration does not have are
refused: the spec says nothing of them (30_encoding.md R67, 40_execution_model.md R88; DESIGN CHOICE, log entry 9). -/
def State.give (u : UnitId) (cs : List Command) (s : State) : Answer :=
  match u with
  | .mu => .next (s.withMu { s.mu with port := s.mu.port.add cs })
  | .su k =>
    match s.su[k]? with
    | some v => .next (s.withSu k { v with port := v.port.add cs })
    | none => .refused .noSuchUnit
  | .is => .next (s.withSnd { s.snd with port := s.snd.port.add cs })
  | .ir j =>
    match s.rcv[j]? with
    | some v => .next (s.withRcv j { v with port := v.port.add cs })
    | none => .refused .noSuchUnit

/-- A line of the text form of a program: `.unit U`, `.at t`, or a command with its buffer (30_encoding.md R67). -/
inductive ProgramLine where
  | unit (u : UnitId)
  | time (t : Nat)
  | command (i : Instr) (buf : List Byte)
  deriving DecidableEq, Repr

/-- Hands a program to the units' ports line by line: each command goes to the unit of the last `.unit` line, no earlier
than the time of a `.at` line just before it (30_encoding.md R67). A program with a `.unit` line for a unit the configuration
does not have is refused whole: the spec is silent on it (DESIGN CHOICE, log entry 9). What R67 leaves open besides is
settled so (DESIGN CHOICE, log entry 8): commands before the first `.unit` line go to the unit given as an argument, the first
no earlier than the time given; a `.unit` line drops the time of a `.at` line above it; of two `.at` lines in a row the second
counts; a second `.unit` line for a unit goes on with its list. -/
def State.load : List ProgramLine → UnitId → Nat → State → Answer
  | [], _, _, s => .next s
  | .unit v :: ls, _, _, s => if (s.portOf v).isSome then State.load ls v 0 s else .refused .noSuchUnit
  | .time t :: ls, u, _, s => State.load ls u t s
  | .command i b :: ls, u, t, s =>
    match s.give u [⟨encode i, Buffer.ofBytes b, t⟩] with
    | .next r => State.load ls u 0 r
    | .fault f => .fault f
    | .refused r => .refused r

/-! ## Placing one command word -/

/-- The unit a command word is meant for, by its operation code; a word with a reserved code is put to `MU`, which refuses
it. -/
def wordUnit (cw : CommandWord) : UnitId :=
  match (CommandWord.op cw).toNat with
  | 2 => .su 0
  | 3 => .su 0
  | 6 => .su 0
  | 7 => .su 0
  | 8 => .is
  | 9 => .ir 0
  | _ => .mu

/-- The buffer that goes with a command word: `LEN` zero bytes for a link-level operation (30_encoding.md R69). -/
def wordBuffer (cw : CommandWord) : Buffer :=
  if (CommandWord.op cw).toNat / 4 = 1 then Buffer.zeros (CommandWord.arg cw).toNat else Buffer.empty

/-- The port with a command put in front of its list. -/
def Port.push (c : Command) (p : Port) : Port := { p with todo := c :: p.todo }

/-- The state in which a command is the first one due for a unit: the unit is idle and the command heads its list. -/
def State.put (u : UnitId) (c : Command) (s : State) : State :=
  match u with
  | .mu => s.withMu { s.mu with phase := .idle, susp := .none, lop := .none, port := s.mu.port.push c }
  | .su k =>
    match s.su[k]? with
    | some v => s.withSu k { v with phase := .idle, susp := .none, lop := .none, port := v.port.push c }
    | none => s
  | .is => s.withSnd { s.snd with phase := .idle, susp := .none, port := s.snd.port.push c }
  | .ir j =>
    match s.rcv[j]? with
    | some v => s.withRcv j { v with phase := .idle, susp := .none, port := v.port.push c }
    | none => s

/-- The state whose very next step issues the given command word to the unit it is meant for (log entry 8): the unit is
idle, the command is due and first on its list, and the agenda names the unit. -/
def State.place (cw : CommandWord) (s : State) : State :=
  let t := s.put (wordUnit cw) ⟨cw, wordBuffer cw, 0⟩
  { t with sel := wordUnit cw, handed := wordBuffer cw, agenda := wordUnit cw :: t.agenda }

end Sys2Proof.Machine
end

