-- ==== Sys2Proof/Machine/Step.lean ====
section
/-! DEFINITION. The step of the block and the placing of a command word; both only call Machine/Schedule.lean. -/

namespace Sys2Proof.Machine

/-- One step of the machine (40_execution_model.md R77). -/
def step (s : State) : Host.Outcome State Fault Refusal := stepOnce s

/-- `s` with a command word placed so that the very next step issues it (log entry 8). -/
def State.withFetchWord (s : State) (nbits w : Nat) : State := s.place (BitVec.ofNat 64 (w % 2 ^ nbits))

end Sys2Proof.Machine
end

