-- ==== Sys2Proof/Safety.lean ====
section
/-! DEFINITION. The terms in which claims about runs are made: when a unit runs an operation, when a run is over, and the
invariants of the block (10_state.md R20; 41_handshake_pin.md R102, R103; 70_reset_and_hazards.md R170). -/

namespace Sys2Proof.Machine

/-! ## Moves -/

/-- The step works on unit `u`, which is carrying out operation `i` and is enabled: the precondition of `RUN(u)`
(40_execution_model.md R78). -/
abbrev State.Runs (s : State) (u : UnitId) (i : Instr) : Prop :=
  s.sel = u ∧ s.current u = some i ∧ s.enabled u = true

/-- The step works on unit `u`, which is `IDLE`: the precondition of `ISSUE(u, cmd)` (40_execution_model.md R88). -/
abbrev State.Idle (s : State) (u : UnitId) : Prop := s.sel = u ∧ s.current u = none

/-- No step is possible (40_execution_model.md R90). -/
abbrev State.Quiescent (s : State) : Prop := s.moves = [] ∧ s.nextTime = none

/-- So many steps in a row. -/
def runSteps : Nat → State → Answer
  | 0, s => .next s
  | n + 1, s =>
    match step s with
    | .next t => runSteps n t
    | .fault f => .fault f
    | .refused r => .refused r

/-- The machine gets from one state to another by some number of steps. -/
abbrev State.Reaches (s t : State) : Prop := ∃ n, runSteps n s = .next t

/-- An answer with its next state, where it is one, changed. -/
def mapNext (f : State → State) : Answer → Answer
  | .next t => .next (f t)
  | .fault e => .fault e
  | .refused r => .refused r

/-- The units of two states agree in everything but `SUSP`: operands, phases, link registers, buffers and ports. -/
abbrev State.UnitsKeepAllButSusp (s t : State) : Prop :=
  { t.mu with susp := .none } = { s.mu with susp := .none } ∧
  t.su.map (fun u => { u with susp := .none }) = s.su.map (fun u => { u with susp := .none }) ∧
  { t.snd with susp := .none } = { s.snd with susp := .none } ∧
  t.rcv.map (fun u => { u with susp := .none }) = s.rcv.map (fun u => { u with susp := .none })

/-- A unit with nothing to do: no operation in progress and nothing the host has still to issue to it. -/
abbrev State.Rests (s : State) (u : UnitId) : Prop := s.current u = none ∧ (s.portOf u).map Port.todo = some []

/-- `SU[k].LOP` set, in the state. -/
def State.restoreLop (k : Nat) (x : SlaveLop) (s : State) : State :=
  { s with su := s.su.modify k (fun u => { u with lop := x }) }

/-! ## The words of a link-level operation -/

/-- The registers and the verdict (call or complete) of a write-direction operation as it comes to its call number `j`,
`j = 0` the first (43_media_access.md R123). -/
def Link.writeCall (dw : DataWidth) (l : Link) : Nat → Link × Bool
  | 0 => l.writeEntry dw
  | j + 1 => (Link.writeCall dw l j).1.writeReturn dw

/-- The same of a read-direction operation, `qs` the words its calls return (43_media_access.md R125). -/
def Link.readCall (dw : DataWidth) (qs : Nat → Word) (l : Link) : Nat → Link × Bool
  | 0 => l.readEntry dw
  | j + 1 => (Link.readCall dw qs l j).1.readReturn dw (qs j)

/-- `ceil(LEN / DATA_BYTES)` (43_media_access.md R130). -/
def Link.calls (dw : DataWidth) (l : Link) : Nat := (l.len.toNat + dw.bytes - 1) / dw.bytes

/-! ## Every data word fits `DATA_WIDTH` -/

/-- Every data word the state holds is a value of `DATA_WIDTH` bits (00_scope.md R8; 10_state.md R25, R26, R28). -/
abbrev State.WidthsFit (s : State) : Prop :=
  s.bus.data.all s.cfg.dataWidth.fits = true ∧
  s.txn.pendingData.all s.cfg.dataWidth.fits = true ∧
  (s.cfg.dataWidth.fits s.mu.d = true ∧ s.cfg.dataWidth.fits s.mu.q = true ∧
    s.cfg.dataWidth.fits s.mu.link.acc = true) ∧
  ∀ u ∈ s.su, s.cfg.dataWidth.fits u.d = true ∧ s.cfg.dataWidth.fits u.q = true ∧
    s.cfg.dataWidth.fits u.link.acc = true

/-! ## No `waitfor` is overslept -/

/-- A suspension does not end in the past. -/
def Susp.notPast (now : Nat) : Susp → Bool
  | .none => true
  | .until t => decide (now ≤ t)
  | .level _ _ => true
  | .edge => true
  | .notice _ => true

/-- Every `waitfor` ends now or later, and an idle unit is not suspended (40_execution_model.md R80, R85, R87). -/
abbrev State.Timely (s : State) : Prop :=
  (s.mu.susp.notPast s.now = true ∧ (s.mu.phase = .idle → s.mu.susp = .none)) ∧
  (∀ u ∈ s.su, u.susp.notPast s.now = true ∧ (u.phase = .idle → u.susp = .none)) ∧
  (s.snd.susp.notPast s.now = true ∧ (s.snd.phase = .idle → s.snd.susp = .none)) ∧
  ∀ u ∈ s.rcv, u.susp.notPast s.now = true ∧ (u.phase = .idle → u.susp = .none)

/-! ## The link registers stay inside the buffer -/

/-- `MU` is inside a called MW. -/
def MasterPhase.inMw : MasterPhase → Bool
  | .mw _ => true
  | .idle => false
  | .mr _ => false
  | .lmwStart => false
  | .lmrStart => false

/-- `MU` is inside a called MR. -/
def MasterPhase.inMr : MasterPhase → Bool
  | .mr _ => true
  | .idle => false
  | .mw _ => false
  | .lmwStart => false
  | .lmrStart => false

/-- A slave-side unit is inside a called SR or SW. -/
def SlavePhase.inWord : SlavePhase → Bool
  | .word _ => true
  | .idle => false
  | .lswStart => false
  | .lsrStart => false

/-- The link registers stand as in a write-direction operation between two words: `IDX <= LEN`, and the buffer has `LEN`
bytes. -/
abbrev Link.WriteOk (l : Link) : Prop := l.idx ≤ l.len.toNat ∧ l.len.toNat ≤ l.buf.size

/-- The link registers stand as at a refill of a read-direction operation: `IDX < LEN`, and the buffer has `LEN` bytes. -/
abbrev Link.ReadOk (l : Link) : Prop := l.idx < l.len.toNat ∧ l.len.toNat ≤ l.buf.size

/-- `LOP` agrees with `PHASE`: `NONE` when idle, the operation itself at the entry of a link-level operation; LMW calls
only MW and LMR only MR (43_media_access.md R123, R125). -/
abbrev MasterUnit.LopFits (u : MasterUnit) : Prop :=
  (u.phase = .idle → u.lop = .none) ∧ (u.phase = .lmwStart → u.lop = .lmw) ∧ (u.phase = .lmrStart → u.lop = .lmr) ∧
  (u.phase.inMw = true → u.lop ≠ .lmr) ∧ (u.phase.inMr = true → u.lop ≠ .lmw)

/-- The same on the slave side: LSW calls only SW and LSR only SR (43_media_access.md R127, R128). -/
abbrev SlaveUnit.LopFits (u : SlaveUnit) : Prop :=
  (u.phase = .idle → u.lop = .none) ∧ (u.phase = .lswStart → u.lop = .lsw) ∧ (u.phase = .lsrStart → u.lop = .lsr) ∧
  (u.phase.inWord = true → u.lop = .lsw → u.dir = .drive) ∧ (u.phase.inWord = true → u.lop = .lsr → u.dir = .capture)

/-- The link registers of `MU` keep their ranges, `LEN` that of `LEN_WIDTH`, and its buffer its canonical form. -/
abbrev MasterUnit.LinkFits (c : Config) (u : MasterUnit) : Prop :=
  u.link.buf.wf = true ∧ c.lengthFits u.link.len = true ∧ u.link.cnt ≤ c.dataWidth.bytes ∧
  (u.phase = .lmwStart ∨ u.phase = .lmrStart → u.link.len.toNat ≤ u.link.buf.size) ∧
  (u.lop = .lmw → u.phase.inMw = true → u.link.WriteOk) ∧ (u.lop = .lmr → u.phase.inMr = true → u.link.ReadOk)

/-- The same of a slave-side unit. -/
abbrev SlaveUnit.LinkFits (c : Config) (u : SlaveUnit) : Prop :=
  u.link.buf.wf = true ∧ c.lengthFits u.link.len = true ∧ u.link.cnt ≤ c.dataWidth.bytes ∧
  (u.phase = .lswStart ∨ u.phase = .lsrStart → u.link.len.toNat ≤ u.link.buf.size) ∧
  (u.lop = .lsw → u.phase.inWord = true → u.link.WriteOk) ∧ (u.lop = .lsr → u.phase.inWord = true → u.link.ReadOk)

/-- Every buffer the host has still to hand over to a port is in canonical form. -/
abbrev Port.BuffersFit (p : Port) : Prop := ∀ c ∈ p.todo, c.buf.wf = true

/-- The link registers and the buffers of the block keep their ranges (10_state.md R28; 20_memory.md R40, R41;
43_media_access.md R122), `LOP` agrees with `PHASE` (40_execution_model.md R87), and every buffer keeps its canonical form. -/
abbrev State.LinksFit (s : State) : Prop :=
  s.handed.wf = true ∧
  (s.mu.LopFits ∧ s.mu.LinkFits s.cfg ∧ s.mu.port.BuffersFit) ∧
  (∀ u ∈ s.su, u.LopFits ∧ u.LinkFits s.cfg ∧ u.port.BuffersFit) ∧
  s.snd.port.BuffersFit ∧ ∀ u ∈ s.rcv, u.port.BuffersFit

/-! ## The handshake (PIN) -/

/-- `MU` waits in `MW_WAIT_ACK` or `MR_WAIT_ACK`. -/
def MasterPhase.awaitsAck : MasterPhase → Bool
  | .mw .waitAck => true
  | .mr .waitAck => true
  | _ => false

/-- `MU` holds `ready` in `MW_HOLD` or `MR_HOLD`. -/
def MasterPhase.holds : MasterPhase → Bool
  | .mw .hold => true
  | .mr .hold => true
  | _ => false

/-- `MU` waits in `MW_WAIT_REL` or `MR_WAIT_REL`. -/
def MasterPhase.awaitsRelease : MasterPhase → Bool
  | .mw .waitRel => true
  | .mr .waitRel => true
  | _ => false

/-- `MU` has driven its address for the present transfer: `*_SETUP`, `*_WAIT_ACK`, `*_HOLD`, `*_WAIT_REL`. -/
def MasterPhase.driving (p : MasterPhase) : Bool :=
  p == .mw .setup || p == .mr .setup || p.awaitsAck || p.holds || p.awaitsRelease

/-- A phase of the PIN variant. -/
def MasterPhase.isPin : MasterPhase → Bool
  | .mw .txnSetup => false
  | .mw .txnWaitAck => false
  | .mw .txnHold => false
  | .mr .txnSetup => false
  | .mr .txnWaitAck => false
  | .mr .txnHold => false
  | _ => true

/-- A phase of the PIN variant. -/
def SlavePhase.isPin : SlavePhase → Bool
  | .word .txnWaitReady => false
  | .word .txnService => false
  | .word .txnAckRel => false
  | _ => true

/-- A phase of the TXN variant. -/
def SlavePhase.isTxn : SlavePhase → Bool
  | .word .waitReady => false
  | .word .backoff => false
  | .word .service => false
  | .word .waitRel => false
  | .word .ackRel => false
  | _ => true

/-- A slave-side unit serves the present transfer: `S_SERVICE`, `S_WAIT_REL`, `S_ACKREL`. -/
def SlavePhase.serving : SlavePhase → Bool
  | .word .service => true
  | .word .waitRel => true
  | .word .ackRel => true
  | _ => false

/-- Where the lines and `MU` stand: `ready` is 1 exactly while `MU` waits for `ack` or holds; while `MU` holds, `ack` is 1;
the address, and in MW the data, that `MU` drove are on the lines from the drive to the end of the transfer
(41_handshake_pin.md R94, R95, R102). -/
abbrev State.MasterHandshake (s : State) : Prop :=
  s.mu.phase.isPin = true ∧
  s.bus.ready = (s.mu.phase.awaitsAck || s.mu.phase.holds) ∧
  (s.mu.phase.holds = true → s.bus.ack = true) ∧
  (s.mu.phase.driving = true → s.bus.address = some s.mu.a) ∧
  (s.mu.phase.driving = true → s.mu.phase.inMw = true → s.bus.data = some s.mu.d)

/-- Where a serving slave-side unit stands in the present transfer: it was admitted once, has the master's address and the
pairing direction, its place agrees with `ack` and with the master's place, and the word it captured is the master's
(SR), or the word on the line and then in `MU.Q` is its own (SW) (41_handshake_pin.md R96, R97, R103). -/
abbrev State.ServesWell (s : State) (u : SlaveUnit) : Prop :=
  s.served = true ∧ u.a = s.mu.a ∧ s.mu.pairs = some u.dir ∧
  (u.phase = .word .service → s.bus.ack = false ∧ s.mu.phase.awaitsAck = true) ∧
  (u.phase = .word .waitRel → s.bus.ack = true ∧
    (s.mu.phase.awaitsAck = true ∨ s.mu.phase.holds = true ∨ s.mu.phase.awaitsRelease = true)) ∧
  (u.phase = .word .ackRel → s.bus.ack = true ∧ s.mu.phase.awaitsRelease = true) ∧
  (u.dir = .capture → u.q = s.mu.d) ∧
  (u.dir = .drive → s.bus.data = some u.d ∧ (s.mu.phase.awaitsAck = false → s.mu.q = u.d))

/-- Where the slave side stands: every serving unit serves the present transfer, at most one unit serves, and `ack` is 1
only while a unit that asserted it serves (10_state.md R20). -/
abbrev State.SlaveHandshake (s : State) : Prop :=
  (∀ u ∈ s.su, u.phase.isPin = true ∧ (u.phase.serving = true → s.ServesWell u)) ∧
  s.su.countP (fun u => u.phase.serving) ≤ 1 ∧
  (s.bus.ack = true → s.su.any (fun u => u.phase == .word .waitRel || u.phase == .word .ackRel) = true)

/-- The handshake invariant of the pin-accurate block (10_state.md R20; 41_handshake_pin.md R102, R103). -/
abbrev State.Handshake (s : State) : Prop :=
  s.cfg.variant = .pin ∧ s.MasterHandshake ∧ s.SlaveHandshake

/-! ## The interrupt line -/

/-- The line is 1 exactly during the pulse (44_interrupt.md R136, R140). -/
abbrev State.PulseShown (s : State) : Prop := s.intr = (s.snd.phase == .pulse)

end Sys2Proof.Machine
end

