-- ==== Sys2Proof/Certificates/Slice0/Obligations.lean ====
section
/-! DEFINITION. What the provers are asked to prove of the model. Each statement names the rule of spec/ it comes from; one
that rests on a choice of the model's says so and names the log entry. `s.Runs u i` is the precondition of `RUN(u)`
(40_execution_model.md R78) and `s.Idle u` that of `ISSUE` (R88): both speak of the state alone. A next state given whole says
of the registers no rule writes that they stay; that they do so at completion, and to the next `ISSUE` and through it, is
the model's choice (91_not_in_source.md N8; log entry 13). `served` in a next state is always the model's record of a match
(log entry 5), and no part of the effect the rule gives. -/

open Sys2Proof Sys2Proof.Machine

/-! ## Encoding -/

/-- The ten worked encodings of 30_encoding.md R71, and its five invalid words. -/
def Obligations.WorkedEncodingsDecode : Prop :=
  decode .w32 0x0000001041424344#64 = .ok (.mw 0x0010 0x41424344) ∧
  decode .w32 0x1000001000000000#64 = .ok (.mr 0x0010) ∧
  decode .w32 0x20000010DEADBEEF#64 = .ok (.sw 0x0010 0xDEADBEEF) ∧
  decode .w32 0x3000001000000000#64 = .ok (.sr 0x0010) ∧
  decode .w32 0x4000001000000006#64 = .ok (.lmw 0x0010 6) ∧
  decode .w32 0x5000001000000005#64 = .ok (.lmr 0x0010 5) ∧
  decode .w32 0x6000001000000005#64 = .ok (.lsw 0x0010 5) ∧
  decode .w32 0x7000001000000006#64 = .ok (.lsr 0x0010 6) ∧
  decode .w32 0x8000000000000000#64 = .ok .isend ∧
  decode .w32 0x9000000000000000#64 = .ok .irecv ∧
  decode .w32 0xA000000000000000#64 = .error .reservedOp ∧
  decode .w32 0x0001001041424344#64 = .error .rsvNotZero ∧
  decode .w32 0x1000001000000001#64 = .error .argNotZero ∧
  decode .w32 0x8000001000000000#64 = .error .addrNotZero ∧
  decode .w16 0x0000001000014142#64 = .error .argNotZero

/-- Decoding the encoding of a well-formed operation gives it back, for all ten operations, every operand and every
`DATA_WIDTH` (30_encoding.md R58 to R61). -/
def Obligations.DecodeOfEncode : Prop :=
  ∀ (dw : DataWidth) (i : Instr), WellFormed dw i = true → decode dw (encode i) = .ok i

/-- A word that decodes is the encoding of the well-formed operation it decodes to: one word per operation
(30_encoding.md R58 to R61, R63). -/
def Obligations.EncodeOfDecode : Prop :=
  ∀ (dw : DataWidth) (cw : CommandWord) (i : Instr), decode dw cw = .ok i → encode i = cw ∧ WellFormed dw i = true

/-- The masks and matches of spec/opcode_table.json select exactly the words of each operation; for `DATA_WIDTH` 16 and 8 the
mask of MW and SW gains bits 31:16 and 31:8 (30_encoding.md R65). -/
def Obligations.MaskAndMatchSelect : Prop :=
  ∀ cw : CommandWord,
    ((∃ a d, decode .w32 cw = .ok (.mw a d)) ↔ cw &&& 0xFFFF000000000000 = 0x0000000000000000) ∧
    ((∃ a, decode .w32 cw = .ok (.mr a)) ↔ cw &&& 0xFFFF0000FFFFFFFF = 0x1000000000000000) ∧
    ((∃ a d, decode .w32 cw = .ok (.sw a d)) ↔ cw &&& 0xFFFF000000000000 = 0x2000000000000000) ∧
    ((∃ a, decode .w32 cw = .ok (.sr a)) ↔ cw &&& 0xFFFF0000FFFFFFFF = 0x3000000000000000) ∧
    ((∃ a n, decode .w32 cw = .ok (.lmw a n)) ↔ cw &&& 0xFFFF000000000000 = 0x4000000000000000) ∧
    ((∃ a n, decode .w32 cw = .ok (.lmr a n)) ↔ cw &&& 0xFFFF000000000000 = 0x5000000000000000) ∧
    ((∃ a n, decode .w32 cw = .ok (.lsw a n)) ↔ cw &&& 0xFFFF000000000000 = 0x6000000000000000) ∧
    ((∃ a n, decode .w32 cw = .ok (.lsr a n)) ↔ cw &&& 0xFFFF000000000000 = 0x7000000000000000) ∧
    (decode .w32 cw = .ok .isend ↔ cw &&& 0xFFFFFFFFFFFFFFFF = 0x8000000000000000) ∧
    (decode .w32 cw = .ok .irecv ↔ cw &&& 0xFFFFFFFFFFFFFFFF = 0x9000000000000000) ∧
    ((∃ a d, decode .w16 cw = .ok (.mw a d)) ↔ cw &&& 0xFFFF0000FFFF0000 = 0x0000000000000000) ∧
    ((∃ a d, decode .w16 cw = .ok (.sw a d)) ↔ cw &&& 0xFFFF0000FFFF0000 = 0x2000000000000000) ∧
    ((∃ a d, decode .w8 cw = .ok (.mw a d)) ↔ cw &&& 0xFFFF0000FFFFFF00 = 0x0000000000000000) ∧
    ((∃ a d, decode .w8 cw = .ok (.sw a d)) ↔ cw &&& 0xFFFF0000FFFFFF00 = 0x2000000000000000)

/-- Which command words are illegal for a unit: exactly the four cases of 30_encoding.md R63 (decision D8), for every unit
kind and width. -/
def Obligations.IllegalWordsAreExactlyThese : Prop :=
  ∀ (kind : UnitKind) (dw : DataWidth) (cw : CommandWord),
    (∃ e, decodeFor kind dw cw = .error e) ↔
      CommandWord.rsv cw ≠ 0 ∨
      9 < (CommandWord.op cw).toNat ∨
      ((CommandWord.op cw = 0x0 ∨ CommandWord.op cw = 0x2) ∧ 2 ^ dw.bits ≤ (CommandWord.arg cw).toNat) ∨
      ((CommandWord.op cw = 0x1 ∨ CommandWord.op cw = 0x3) ∧ CommandWord.arg cw ≠ 0) ∨
      ((CommandWord.op cw = 0x8 ∨ CommandWord.op cw = 0x9) ∧ (CommandWord.addr cw ≠ 0 ∨ CommandWord.arg cw ≠ 0)) ∨
      ¬ ((kind = .master ∧ CommandWord.op cw ∈ [0x0#4, 0x1#4, 0x4#4, 0x5#4]) ∨
         (kind = .slave ∧ CommandWord.op cw ∈ [0x2#4, 0x3#4, 0x6#4, 0x7#4]) ∨
         (kind = .sender ∧ CommandWord.op cw = 0x8) ∨
         (kind = .receiver ∧ CommandWord.op cw = 0x9))

/-! ## Reset and configuration -/

/-- What reset leaves, in every configuration (10_state.md R34, decision D3). That each port is empty, with no completion
indicated and nothing to issue, is in no row of R34 and is the model's choice (U14; log entries 2 and 8). -/
def Obligations.ResetState : Prop :=
  ∀ c : Config,
    let s := State.resetWith c
    s.cfg = c ∧ s.now = 0 ∧ s.bus.ready = false ∧ s.bus.ack = false ∧ s.intr = false ∧
    s.bus.address = none ∧ s.bus.data = none ∧ s.txn.pendingAddress = none ∧ s.txn.pendingData = none ∧
    (s.mu.phase = .idle ∧ s.mu.susp = .none ∧ s.mu.lop = .none ∧ s.mu.port = Port.empty) ∧
    (s.su.length = c.nSlaves ∧
      ∀ u ∈ s.su, u.phase = .idle ∧ u.susp = .none ∧ u.lop = .none ∧ u.port = Port.empty) ∧
    (s.snd.phase = .idle ∧ s.snd.susp = .none ∧ s.snd.port = Port.empty) ∧
    (s.rcv.length = c.nRecv ∧
      ∀ u ∈ s.rcv, u.phase = .idle ∧ u.susp = .none ∧ u.prev = false ∧ u.port = Port.empty) ∧
    (∀ e, s.waiters (.notice e) = [])

/-- After reset nothing happens until the host issues a command (70_reset_and_hazards.md R161, decision D3): no step is
possible and the state is final (40_execution_model.md R90). -/
def Obligations.NothingHappensAfterReset : Prop :=
  ∀ c : Config, c.legal = true →
    (State.resetWith c).moves = [] ∧ step (State.resetWith c) = .fault .finished

/-- The default parameters of 00_scope.md R6 and the tick counts of 40_execution_model.md R92 (decisions D2, D7). -/
def Obligations.DefaultParametersAndTicks : Prop :=
  let c := Config.default
  c.addrWidth = 16 ∧ c.dataWidth = .w32 ∧ c.dataWidth.bytes = 4 ∧ c.lenWidth = 32 ∧ c.variant = .pin ∧ c.tTick = 1000 ∧
  c.delays.map c.ticks = [5, 10, 15, 1, 12, 7, 5] ∧ c.delays = [5000, 10000, 15000, 1000, 12000, 7000, 5000] ∧
  (∀ d ∈ c.delays, c.tTick ∣ d) ∧ c.legal = true

/-- The configuration constants never change and time never goes back (00_scope.md R6; 10_state.md R19, R31). -/
def Obligations.ConfigurationNeverChanges : Prop :=
  ∀ s t : State, step s = .next t → t.cfg = s.cfg ∧ s.now ≤ t.now ∧ t.su.length = s.su.length ∧ t.rcv.length = s.rcv.length

/-! ## Steps -/

/-- A step runs the decoded operation: when the unit that moves has an operation in progress, the step is `exec` of that
operation; when it is idle and a command is due, the step is `exec` of the operation its unit decodes from the command
word, the command taken off the list and its buffer handed over; a word that does not decode is refused
(40_execution_model.md R77, R78, R88; 30_encoding.md R63). The order's own fields and `sel` are the model's (log entries 3, 4). -/
def Obligations.StepRunsTheDecodedOperation : Prop :=
  ∀ (s r : State) (u : UnitId), s.cfg.legal = true → s.choose = some (u, r) →
    (∀ i, r.current u = some i → step s = exec i { r with sel := u }) ∧
    (∀ c i, r.current u = none → r.dueCommand u = some c → decodeFor u.kind r.cfg.dataWidth c.word = .ok i →
      step s = exec i { r.popCommand u with sel := u, handed := c.buf }) ∧
    (∀ c e, r.current u = none → r.dueCommand u = some c → decodeFor u.kind r.cfg.dataWidth c.word = .error e →
      step s = .refused (.illegalCommand e))

/-- Which configurations are admitted, and that a step refuses every other (00_scope.md R6, R7; 40_execution_model.md R92;
70_reset_and_hazards.md R178; U16; the name of the refusal is the model's, log entry 9). -/
def Obligations.IllegalConfigurationIsRefused : Prop :=
  ∀ s : State,
    (s.cfg.legal = true ↔
      s.cfg.addrWidth = 16 ∧ 1 ≤ s.cfg.nSlaves ∧ 1 ≤ s.cfg.nRecv ∧ (s.cfg.variant = .pin → 1 ≤ s.cfg.tBackoff) ∧
      (s.cfg.clocked = true → 1 ≤ s.cfg.tTick ∧ ∀ d ∈ s.cfg.delays, s.cfg.tTick ∣ d)) ∧
    (s.cfg.legal = false → step s = .refused .illegalConfig)

/-- The unit chosen is one that can move, one is chosen whenever one can, and the choice changes nothing but the model's
`agenda` and `tick` (40_execution_model.md R76, R77, R89; log entry 3). -/
def Obligations.TheChosenUnitCanMove : Prop :=
  ∀ s : State,
    (∀ u r, s.choose = some (u, r) →
      u ∈ s.units ∧ (s.enabled u = true ∨ ∃ c, s.dueCommand u = some c) ∧
      r = { s with agenda := r.agenda, tick := r.tick }) ∧
    (s.choose = none ↔ ∀ u ∈ s.units, s.enabled u = false ∧ s.dueCommand u = none)

/-- Every order is possible (40_execution_model.md R89, decision D15): whichever unit can move, some `agenda` makes it move
first, and the agenda is then the rest of what it was. -/
def Obligations.EveryOrderIsPossible : Prop :=
  ∀ (s : State) (u : UnitId) (rest : List UnitId), s.cfg.legal = true → u ∈ s.units →
    (s.enabled u = true ∨ ∃ c, s.dueCommand u = some c) →
    step { s with agenda := u :: rest } = move u { s with agenda := rest }

/-- `ADVANCE` (40_execution_model.md R85): possible when no unit is enabled, no command is due, and a `waitfor` ends later or a
command's time is later; `now` becomes the least such time and nothing else changes; and time moves in no other step. That
the times of all commands still to be issued count, not only of the next of each list, is the model's reading (log entry
10); that in a synchronous build the hidden previous-sample bit of a receiver samples in this step is its choice (44_interrupt.md
R144, log entry 7). -/
def Obligations.TimeAdvancesOnlyWhenNothingCanRun : Prop :=
  ∀ s : State, s.cfg.legal = true →
    (∀ n, (∀ u ∈ s.units, s.enabled u = false ∧ s.dueCommand u = none) →
      (n ∈ s.eventTimes ∧ s.now < n ∧ ∀ m ∈ s.eventTimes, s.now < m → n ≤ m) →
      ∃ bits : List ReceiverUnit,
        step s = .next { s with now := n, rcv := bits } ∧
        bits.map (fun u => { u with prev := false }) = s.rcv.map (fun u => { u with prev := false }) ∧
        (s.cfg.clocked = false → bits = s.rcv)) ∧
    (∀ t, step s = .next t → t.now ≠ s.now →
      (∀ u ∈ s.units, s.enabled u = false ∧ s.dueCommand u = none) ∧
      t.now ∈ s.eventTimes ∧ s.now < t.now ∧ ∀ m ∈ s.eventTimes, s.now < m → t.now ≤ m)

/-- `waitfor(n)` (40_execution_model.md R80): a unit suspended until `x` in consequence of a step waits one of the seven
delays from `now`; it is enabled exactly at `x`; no step takes it out of the wait before `x`; and from a state in which no
`waitfor` has been overslept no step oversleeps one. The delays are at least 1 with the default values. -/
def Obligations.WaitforIsExact : Prop :=
  (∀ (s t : State) (u : UnitId) (x : Nat), step s = .next t → t.suspOf u = some (.until x) →
    s.suspOf u = some (.until x) ∨ ∃ n ∈ s.cfg.delays, x = s.now + n) ∧
  (∀ (s : State) (u : UnitId) (x : Nat), (s.current u).isSome = true → s.suspOf u = some (.until x) →
    (s.enabled u = true ↔ s.now = x)) ∧
  (∀ (s t : State) (u : UnitId) (x : Nat), step s = .next t → (s.current u).isSome = true →
    s.suspOf u = some (.until x) → t.suspOf u = some (.until x) ∨ s.now = x) ∧
  (∀ (s t : State) (u : UnitId) (x : Nat), s.Timely → step s = .next t → t.suspOf u = some (.until x) → t.now ≤ x) ∧
  ∀ d ∈ Config.default.delays, 1 ≤ d

/-- No cancellation, no timeout (40_execution_model.md R91): a step takes a unit out of a level wait only where the line has
the awaited value, out of an edge wait only by raising `intr`, and out of a notice wait only by signalling that notice in
this very step: the master goes from its setup to the wait for `ackNotice`, which is where it signals `readyNotice`, or a
slave-side unit leaves its release, which is where it signals `ackNotice`. -/
def Obligations.OnlyTheConditionEndsAWait : Prop :=
  ∀ (s t : State) (u : UnitId), step s = .next t → (s.current u).isSome = true →
    (∀ g v, s.suspOf u = some (.level g v) → t.suspOf u = some (.level g v) ∨ s.level g = v) ∧
    (s.suspOf u = some .edge → t.suspOf u = some .edge ∨ (s.intr = false ∧ t.intr = true)) ∧
    (s.suspOf u = some (.notice .readyNotice) →
      t.suspOf u = some (.notice .readyNotice) ∨
      (s.mu.phase = .mw .txnSetup ∧ t.mu.phase = .mw .txnWaitAck) ∨
      (s.mu.phase = .mr .txnSetup ∧ t.mu.phase = .mr .txnWaitAck)) ∧
    (s.suspOf u = some (.notice .ackNotice) →
      t.suspOf u = some (.notice .ackNotice) ∨
      ∃ (k : Nat) (v w : SlaveUnit), s.su[k]? = some v ∧ v.phase = .word .txnAckRel ∧
        t.su[k]? = some w ∧ w.phase ≠ .word .txnAckRel)

/-- When a run is over and when it hangs (40_execution_model.md R90, decision D27): no step is possible exactly when no unit
can move and no later event is due; it is then final or a permanent suspension. -/
def Obligations.FinishedOrStuck : Prop :=
  ∀ s : State, s.cfg.legal = true →
    (step s = .fault .finished ∨ step s = .fault .stuck → s.Quiescent) ∧
    (s.Quiescent → (∀ u ∈ s.units, s.Rests u) → step s = .fault .finished) ∧
    (s.Quiescent → ¬ (∀ u ∈ s.units, s.Rests u) → step s = .fault .stuck)

/-! ## Issue -/

/-- `ISSUE` of MW, MR, SR, SW to an idle unit (40_execution_model.md R88; 41_handshake_pin.md R94 to R97): the operands are
latched, `PHASE` is the operation's first point, `SUSP` is `NONE`, the completion indication goes (30_encoding.md R66), and
nothing else changes (of the unit's other registers: log entry 13). -/
def Obligations.IssueLatchesWordOperands : Prop :=
  (∀ (s : State) (a : Addr) (d : Word), s.Idle .mu → WellFormed s.cfg.dataWidth (.mw a d) = true →
    exec (.mw a d) s = .next { s with
      mu := { s.mu with phase := .mw .start, susp := .none, a := a, d := d, port := ⟨s.mu.port.todo, none⟩ } }) ∧
  (∀ (s : State) (a : Addr), s.Idle .mu →
    exec (.mr a) s = .next { s with
      mu := { s.mu with phase := .mr .start, susp := .none, a := a, port := ⟨s.mu.port.todo, none⟩ } }) ∧
  (∀ (s : State) (k : Nat) (u : SlaveUnit) (a : Addr), s.Idle (.su k) → s.su[k]? = some u →
    exec (.sr a) s = .next { s with
      su := s.su.set k { u with
        phase := .word .start, susp := .none, a := a, dir := .capture, port := ⟨u.port.todo, none⟩ } }) ∧
  (∀ (s : State) (k : Nat) (u : SlaveUnit) (a : Addr) (d : Word), s.Idle (.su k) → s.su[k]? = some u →
    WellFormed s.cfg.dataWidth (.sw a d) = true →
    exec (.sw a d) s = .next { s with
      su := s.su.set k { u with
        phase := .word .start, susp := .none, a := a, d := d, dir := .drive, port := ⟨u.port.todo, none⟩ } })

/-- `ISSUE` of LMW, LMR, LSW, LSR to an idle unit with a buffer of at least as many bytes as the command says
(30_encoding.md R69; 43_media_access.md R123, R125, R127, R128): `LOP`, `LADDR`, `LEN`, `BUF` are latched and nothing of the bus
changes. `LEN` holds the command's length where that is a value of `LEN_WIDTH` bits, as each is with the default; else the
spec states no value and it holds a free one of `LEN_WIDTH` bits, the counter `drawn` going on (log entry 14). That `ACC`, `IDX`
and `CNT` keep what an earlier operation left is the model's choice (91_not_in_source.md N8; log entry 13). -/
def Obligations.IssueLatchesLinkOperands : Prop :=
  ∀ (s : State) (a : Addr) (n m : Len) (x : Nat), n.toNat ≤ s.handed.size →
    (n.toNat < 2 ^ s.cfg.lenWidth ∧ m = n ∧ x = s.drawn) ∨
      (2 ^ s.cfg.lenWidth ≤ n.toNat ∧ m = s.freeLength ∧ x = s.drawn + 1) →
    m.toNat < 2 ^ s.cfg.lenWidth ∧ m.toNat ≤ n.toNat ∧
    (s.Idle .mu →
      exec (.lmw a n) s = .next { s with
        drawn := x
        mu := { s.mu with
          phase := .lmwStart, susp := .none, lop := .lmw, port := ⟨s.mu.port.todo, none⟩,
          link := { s.mu.link with laddr := a, len := m, buf := s.handed } } } ∧
      exec (.lmr a n) s = .next { s with
        drawn := x
        mu := { s.mu with
          phase := .lmrStart, susp := .none, lop := .lmr, port := ⟨s.mu.port.todo, none⟩,
          link := { s.mu.link with laddr := a, len := m, buf := s.handed } } }) ∧
    (∀ (k : Nat) (u : SlaveUnit), s.Idle (.su k) → s.su[k]? = some u →
      exec (.lsw a n) s = .next { s with
        drawn := x
        su := s.su.set k { u with
          phase := .lswStart, susp := .none, lop := .lsw, port := ⟨u.port.todo, none⟩,
          link := { u.link with laddr := a, len := m, buf := s.handed } } } ∧
      exec (.lsr a n) s = .next { s with
        drawn := x
        su := s.su.set k { u with
          phase := .lsrStart, susp := .none, lop := .lsr, port := ⟨u.port.todo, none⟩,
          link := { u.link with laddr := a, len := m, buf := s.handed } } })

/-- A link-level command whose buffer has fewer bytes than its length says is refused (30_encoding.md R61, R69;
93_implementation_defined.md U8). -/
def Obligations.ShortBufferIsRefused : Prop :=
  ∀ (s : State) (a : Addr) (n : Len), s.handed.size < n.toNat →
    (s.Idle .mu → exec (.lmw a n) s = .refused .shortBuffer ∧ exec (.lmr a n) s = .refused .shortBuffer) ∧
    (∀ k u, s.Idle (.su k) → s.su[k]? = some u →
      exec (.lsw a n) s = .refused .shortBuffer ∧ exec (.lsr a n) s = .refused .shortBuffer)

/-- A unit carries out one operation at a time and accepts only its own (40_execution_model.md R75, R78; 30_encoding.md R62):
another operation put to a busy unit has no move, nor has a unit that is not enabled, nor an operation put to a unit of
another kind. That these have no move is the spec's; the names of the refusals are the model's (log entry 9). -/
def Obligations.NoMoveForABusyOrWrongUnit : Prop :=
  ∀ (s : State) (i j : Instr),
    (s.current s.sel = some j → i.acceptedBy = s.sel.kind → i ≠ j → exec i s = .refused .busy) ∧
    (s.current s.sel = some i → s.enabled s.sel = false → ∃ e, exec i s = .refused e) ∧
    (i.acceptedBy ≠ s.sel.kind → exec i s = .refused .wrongUnit)

/-! ## The pin-accurate handshake -/

/-- MW under `PIN`, from each of its points to the next (41_handshake_pin.md R94). `served := false` at `START` is the model's
record of a match, which a new word-level operation clears (log entry 5). -/
def Obligations.MasterWriteUnderPin : Prop :=
  ∀ (s : State) (a : Addr) (d : Word), s.cfg.variant = .pin → s.Runs .mu (.mw a d) →
    (s.mu.phase = .mw .start →
      exec (.mw a d) s = .next { s with
        served := false
        bus := { s.bus with address := some a, data := some d }
        mu := { s.mu with phase := .mw .setup, susp := .until (s.now + s.cfg.tSetup) } }) ∧
    (s.mu.phase = .mw .setup → s.bus.ack = false →
      exec (.mw a d) s = .next { s with
        bus := { s.bus with ready := true }
        mu := { s.mu with phase := .mw .waitAck, susp := .level .ack true } }) ∧
    (s.mu.phase = .mw .setup ∨ s.mu.phase = .mw .waitAck → s.bus.ack = true →
      exec (.mw a d) s = .next { s with
        bus := { s.bus with ready := s.bus.ready || s.mu.phase == .mw .setup }
        mu := { s.mu with phase := .mw .hold, susp := .until (s.now + s.cfg.tWHold) } }) ∧
    (s.mu.phase = .mw .hold → s.bus.ack = true →
      exec (.mw a d) s = .next { s with
        bus := { s.bus with ready := false }
        mu := { s.mu with phase := .mw .waitRel, susp := .level .ack false } }) ∧
    (s.mu.phase = .mw .hold ∨ s.mu.phase = .mw .waitRel → s.bus.ack = false →
      exec (.mw a d) s = .next { s with
        bus := { s.bus with ready := s.bus.ready && s.mu.phase == .mw .waitRel }
        mu := { s.mu with phase := .idle, susp := .none, port := ⟨s.mu.port.todo, some ⟨s.now, .nothing⟩⟩ } })

/-- MR under `PIN`, from each of its points to the next (41_handshake_pin.md R95): the word is sampled in the segment that
observes `ack = 1`, and returned at completion. `served := false` at `START` is the model's record of a match (log entry 5). -/
def Obligations.MasterReadUnderPin : Prop :=
  ∀ (s : State) (a : Addr), s.cfg.variant = .pin → s.Runs .mu (.mr a) →
    (s.mu.phase = .mr .start →
      exec (.mr a) s = .next { s with
        served := false
        bus := { s.bus with address := some a }
        mu := { s.mu with phase := .mr .setup, susp := .until (s.now + s.cfg.tSetup) } }) ∧
    (s.mu.phase = .mr .setup → s.bus.ack = false →
      exec (.mr a) s = .next { s with
        bus := { s.bus with ready := true }
        mu := { s.mu with phase := .mr .waitAck, susp := .level .ack true } }) ∧
    (∀ w, s.mu.phase = .mr .setup ∨ s.mu.phase = .mr .waitAck → s.bus.ack = true → s.bus.data = some w →
      exec (.mr a) s = .next { s with
        bus := { s.bus with ready := s.bus.ready || s.mu.phase == .mr .setup }
        mu := { s.mu with phase := .mr .hold, susp := .until (s.now + s.cfg.tRHold), q := w } }) ∧
    (s.mu.phase = .mr .hold → s.bus.ack = true →
      exec (.mr a) s = .next { s with
        bus := { s.bus with ready := false }
        mu := { s.mu with phase := .mr .waitRel, susp := .level .ack false } }) ∧
    (s.mu.phase = .mr .hold ∨ s.mu.phase = .mr .waitRel → s.bus.ack = false →
      exec (.mr a) s = .next { s with
        bus := { s.bus with ready := s.bus.ready && s.mu.phase == .mr .waitRel }
        mu := { s.mu with
          phase := .idle, susp := .none, port := ⟨s.mu.port.todo, some ⟨s.now, .word s.mu.q⟩⟩ } })

/-- SR and SW under `PIN`, the wait and the match (41_handshake_pin.md R96 to R98): with `ready` 0 the unit suspends in
`S_WAIT_READY`; with `ready` 1 and the matching address it captures `data` (SR) or drives it (SW) in the same segment and
serves. The match goes on where no other unit has matched this transfer and the master's operation is of the pairing
direction (70_reset_and_hazards.md R170); `served` is the model's record of it (log entry 5). -/
def Obligations.SlaveMatchUnderPin : Prop :=
  ∀ (s : State) (k : Nat) (u : SlaveUnit), s.cfg.variant = .pin → s.su[k]? = some u →
    u.phase = .word .start ∨ u.phase = .word .waitReady ∨ u.phase = .word .backoff →
    (∀ i, s.Runs (.su k) i → s.bus.ready = false →
      exec i s = .next { s with
        su := s.su.set k { u with phase := .word .waitReady, susp := .level .ready true } }) ∧
    (∀ a w, s.Runs (.su k) (.sr a) → s.bus.ready = true → s.bus.address = some a → s.bus.data = some w →
      s.served = false → s.mu.pairs = some .capture →
      exec (.sr a) s = .next { s with
        served := true
        su := s.su.set k { u with
          phase := .word .service, susp := .until (s.now + s.cfg.tSlave), q := w } }) ∧
    (∀ a d, s.Runs (.su k) (.sw a d) → s.bus.ready = true → s.bus.address = some a →
      s.served = false → s.mu.pairs = some .drive →
      exec (.sw a d) s = .next { s with
        served := true
        bus := { s.bus with data := some d }
        su := s.su.set k { u with phase := .word .service, susp := .until (s.now + s.cfg.tSlave) } })

/-- SR and SW under `PIN`, the acknowledgement (41_handshake_pin.md R96, R97): `ack` rises after the service, the unit waits
for `ready` to fall, then `T_ACKREL`, then `ack` falls and it completes, SR with the word captured. -/
def Obligations.SlaveAcknowledgeUnderPin : Prop :=
  ∀ (s : State) (k : Nat) (u : SlaveUnit), s.cfg.variant = .pin → s.su[k]? = some u →
    (∀ i, s.Runs (.su k) i → u.phase = .word .service → s.bus.ready = true →
      exec i s = .next { s with
        bus := { s.bus with ack := true }
        su := s.su.set k { u with phase := .word .waitRel, susp := .level .ready false } }) ∧
    (∀ i, s.Runs (.su k) i → u.phase = .word .service ∨ u.phase = .word .waitRel → s.bus.ready = false →
      exec i s = .next { s with
        bus := { s.bus with ack := s.bus.ack || u.phase == .word .service }
        su := s.su.set k { u with phase := .word .ackRel, susp := .until (s.now + s.cfg.tAckRel) } }) ∧
    (∀ a, s.Runs (.su k) (.sr a) → u.phase = .word .ackRel →
      exec (.sr a) s = .next { s with
        bus := { s.bus with ack := false }
        su := s.su.set k { u with
          phase := .idle, susp := .none, port := ⟨u.port.todo, some ⟨s.now, .word u.q⟩⟩ } }) ∧
    (∀ a d, s.Runs (.su k) (.sw a d) → u.phase = .word .ackRel →
      exec (.sw a d) s = .next { s with
        bus := { s.bus with ack := false }
        su := s.su.set k { u with
          phase := .idle, susp := .none, port := ⟨u.port.todo, some ⟨s.now, .nothing⟩⟩ } })

/-- A mismatched attempt (41_handshake_pin.md R99): for SR, SW, and LSR, LSW inside a call, a pass that finds another address
writes no shared signal, changes of the unit only `PHASE` and `SUSP`, and leaves the operation in progress with its address;
and from a state of the handshake invariant a step raises `ack` only by a unit that was invoked with the address on the
lines and has matched it, and goes from its service to the wait for the release. That a match is on record is read from
the model's `served` (log entry 5). -/
def Obligations.MismatchIsARetryAndNothingElse : Prop :=
  (∀ (s : State) (k : Nat) (u : SlaveUnit) (i : Instr) (x : Addr), s.cfg.variant = .pin → s.su[k]? = some u →
    s.Runs (.su k) i → u.phase = .word .start ∨ u.phase = .word .waitReady ∨ u.phase = .word .backoff →
    s.bus.ready = true → s.bus.address = some x → x ≠ u.a →
    ∃ t, exec i s = .next t ∧
      t = { s with su := s.su.set k { u with phase := .word .backoff, susp := .until (s.now + s.cfg.tBackoff) } } ∧
      t.current (.su k) = some i) ∧
  (∀ s t : State, s.Handshake → step s = .next t → s.bus.ack = false → t.bus.ack = true →
    ∃ (k : Nat) (u w : SlaveUnit), s.su[k]? = some u ∧ u.phase = .word .service ∧ s.served = true ∧
      s.bus.address = some u.a ∧
      t.su[k]? = some w ∧ (w.phase = .word .waitRel ∨ w.phase = .word .ackRel) ∧ w.a = u.a)

/-- What the spec gives no meaning (70_reset_and_hazards.md R171, R172; 93_implementation_defined.md U1, U2, U3). First part:
at the address test of SR and SW, and of LSW and LSR inside a call, under `PIN` with `ready` 1 at `START` (an operation issued
late, 41_handshake_pin.md R107), `S_WAIT_READY` or `S_BACKOFF`, under `TXN` when woken by `readyNotice`: an undriven address is a
fault; with the address matched, a capture of undriven data is a fault, a second match in one transfer and a match in the
wrong direction are refused. Second part: MR, and LMR inside a call, at the sample of undriven data. The names, and the
record `served` of a match, are the model's (log entries 5 and 9). -/
def Obligations.IllPairedTransfersHaveNoMeaning : Prop :=
  (∀ (s : State) (k : Nat) (u : SlaveUnit) (i : Instr) (x : Option Addr) (y : Option Word) (cx cy : CellName),
    s.su[k]? = some u → s.Runs (.su k) i →
    (s.cfg.variant = .pin ∧ s.bus.ready = true ∧
        (u.phase = .word .start ∨ u.phase = .word .waitReady ∨ u.phase = .word .backoff) ∧
        x = s.bus.address ∧ y = s.bus.data ∧ cx = .address ∧ cy = .data) ∨
      (s.cfg.variant = .txn ∧ u.phase = .word .txnWaitReady ∧
        x = s.txn.pendingAddress ∧ y = s.txn.pendingData ∧ cx = .pendingAddress ∧ cy = .pendingData) →
    (x = none → exec i s = .fault (.unwritten cx)) ∧
    (x = some u.a → u.dir = .capture → y = none → exec i s = .fault (.unwritten cy)) ∧
    (x = some u.a → u.dir = .capture → y.isSome = true →
      (s.served = true → exec i s = .refused .twoMatched) ∧
      (s.served = false → s.mu.pairs = some .drive → exec i s = .refused .wrongDirection)) ∧
    (x = some u.a → u.dir = .drive →
      (s.served = true → exec i s = .refused .twoMatched) ∧
      (s.served = false → s.mu.pairs = some .capture → exec i s = .refused .wrongDirection))) ∧
  (∀ (s : State) (i : Instr), s.Runs .mu i → (∃ a, i = .mr a) ∨ (∃ a n, i = .lmr a n) →
    (s.mu.phase = .mr .setup ∨ s.mu.phase = .mr .waitAck → s.bus.ack = true → s.bus.data = none →
      exec i s = .fault (.unwritten .data)) ∧
    (s.mu.phase = .mr .txnWaitAck → s.txn.pendingData = none → exec i s = .fault (.unwritten .pendingData)))

/-! ## The transaction-level handshake -/

/-- MW under `TXN` (42_handshake_txn.md R111): the cells, the setup, `notify(readyNotice)` and the wait for `ackNotice`, the
hold, the completion. `served := false` at `START` is the model's record of a match (log entry 5). -/
def Obligations.MasterWriteUnderTxn : Prop :=
  ∀ (s : State) (a : Addr) (d : Word), s.cfg.variant = .txn → s.Runs .mu (.mw a d) →
    (s.mu.phase = .mw .start →
      exec (.mw a d) s = .next { s with
        served := false
        txn := ⟨some a, some d⟩
        mu := { s.mu with phase := .mw .txnSetup, susp := .until (s.now + s.cfg.tSetup) } }) ∧
    (s.mu.phase = .mw .txnSetup →
      exec (.mw a d) s = .next { s.notify .readyNotice with
        mu := { s.mu with phase := .mw .txnWaitAck, susp := .notice .ackNotice } }) ∧
    (s.mu.phase = .mw .txnWaitAck →
      exec (.mw a d) s = .next { s with
        mu := { s.mu with phase := .mw .txnHold, susp := .until (s.now + s.cfg.tWHold) } }) ∧
    (s.mu.phase = .mw .txnHold →
      exec (.mw a d) s = .next { s with
        mu := { s.mu with phase := .idle, susp := .none, port := ⟨s.mu.port.todo, some ⟨s.now, .nothing⟩⟩ } })

/-- MR under `TXN` (42_handshake_txn.md R112, decision D17). `served := false` at `START` is the model's record of a match (log
entry 5). -/
def Obligations.MasterReadUnderTxn : Prop :=
  ∀ (s : State) (a : Addr), s.cfg.variant = .txn → s.Runs .mu (.mr a) →
    (s.mu.phase = .mr .start →
      exec (.mr a) s = .next { s with
        served := false
        txn := { s.txn with pendingAddress := some a }
        mu := { s.mu with phase := .mr .txnSetup, susp := .until (s.now + s.cfg.tSetup) } }) ∧
    (s.mu.phase = .mr .txnSetup →
      exec (.mr a) s = .next { s.notify .readyNotice with
        mu := { s.mu with phase := .mr .txnWaitAck, susp := .notice .ackNotice } }) ∧
    (∀ w, s.mu.phase = .mr .txnWaitAck → s.txn.pendingData = some w →
      exec (.mr a) s = .next { s with
        mu := { s.mu with phase := .mr .txnHold, susp := .until (s.now + s.cfg.tRHold), q := w } }) ∧
    (s.mu.phase = .mr .txnHold →
      exec (.mr a) s = .next { s with
        mu := { s.mu with
          phase := .idle, susp := .none, port := ⟨s.mu.port.todo, some ⟨s.now, .word s.mu.q⟩⟩ } })

/-- SR and SW under `TXN` (42_handshake_txn.md R113; R114 and R115, decisions D17, D18): the wait for `readyNotice`, the match,
the service, the release, `notify(ackNotice)` and the completion in one segment; a mismatch waits for the next notice,
writes nothing and signals nothing. -/
def Obligations.SlaveUnderTxn : Prop :=
  ∀ (s : State) (k : Nat) (u : SlaveUnit), s.cfg.variant = .txn → s.su[k]? = some u →
    (∀ i, s.Runs (.su k) i →
      u.phase = .word .start ∨
        (u.phase = .word .txnWaitReady ∧ ∃ x, s.txn.pendingAddress = some x ∧ x ≠ u.a) →
      exec i s = .next { s with
        su := s.su.set k { u with phase := .word .txnWaitReady, susp := .notice .readyNotice } }) ∧
    (∀ a w, s.Runs (.su k) (.sr a) → u.phase = .word .txnWaitReady → s.txn = ⟨some a, some w⟩ →
      s.served = false → s.mu.pairs = some .capture →
      exec (.sr a) s = .next { s with
        served := true
        su := s.su.set k { u with
          phase := .word .txnService, susp := .until (s.now + s.cfg.tSlave), q := w } }) ∧
    (∀ a d, s.Runs (.su k) (.sw a d) → u.phase = .word .txnWaitReady → s.txn.pendingAddress = some a →
      s.served = false → s.mu.pairs = some .drive →
      exec (.sw a d) s = .next { s with
        served := true
        txn := ⟨some a, some d⟩
        su := s.su.set k { u with phase := .word .txnService, susp := .until (s.now + s.cfg.tSlave) } }) ∧
    (∀ i, s.Runs (.su k) i → u.phase = .word .txnService →
      exec i s = .next { s with
        su := s.su.set k { u with phase := .word .txnAckRel, susp := .until (s.now + s.cfg.tAckRel) } }) ∧
    (∀ a, s.Runs (.su k) (.sr a) → u.phase = .word .txnAckRel →
      exec (.sr a) s = .next { s.notify .ackNotice with
        su := (s.notify .ackNotice).su.set k { u with
          phase := .idle, susp := .none, port := ⟨u.port.todo, some ⟨s.now, .word u.q⟩⟩ } }) ∧
    (∀ a d, s.Runs (.su k) (.sw a d) → u.phase = .word .txnAckRel →
      exec (.sw a d) s = .next { s.notify .ackNotice with
        su := (s.notify .ackNotice).su.set k { u with
          phase := .idle, susp := .none, port := ⟨u.port.todo, some ⟨s.now, .nothing⟩⟩ } })

/-- `notify(e)` and what a rising edge wakes (40_execution_model.md R83, R84, decisions D16, D19): it sets `SUSP` to `NONE` for
exactly the units whose `SUSP` is the one waited on, whichever that is, and has no other effect: no register, phase, buffer or
port of any unit, no line, cell, time or field of the model's own changes; with nobody waiting it changes nothing, so it is
lost. -/
def Obligations.AWakeEndsItsWaitsAndNothingElse : Prop :=
  ∀ (s : State) (w : Susp),
    (∀ u, (s.wake w).suspOf u = if s.suspOf u = some w then some .none else s.suspOf u) ∧
    s.UnitsKeepAllButSusp (s.wake w) ∧
    (∀ u, (s.wake w).current u = s.current u ∧ (s.wake w).portOf u = s.portOf u) ∧
    (∃ m l n r, s.wake w = { s with mu := m, su := l, snd := n, rcv := r }) ∧
    (s.waiters w = [] → s.wake w = s) ∧
    (∀ e, w = .notice e → s.notify e = s.wake w)

/-! ## The media access layer -/

/-- Inside a called word-level operation a link-level operation does exactly what the word-level operation does
(40_execution_model.md R86; 30_encoding.md R68; 43_media_access.md R121): as long as the word-level operation does not
complete, every answer is the same but for `LOP`. -/
def Obligations.ACallRunsTheWordLevelOperation : Prop :=
  (∀ (s : State) (a : Addr) (n : Len) (p : MwPoint), s.Runs .mu (.lmw a n) → s.mu.phase = .mw p →
    let s' := { s with mu := { s.mu with lop := .none } }
    (∀ t, exec (.mw s.mu.a s.mu.d) s' = .next t → t.mu.phase ≠ .idle →
      exec (.lmw a n) s = .next { t with mu := { t.mu with lop := .lmw } }) ∧
    (∀ f, exec (.mw s.mu.a s.mu.d) s' = .fault f ↔ exec (.lmw a n) s = .fault f)) ∧
  (∀ (s : State) (a : Addr) (n : Len) (p : MrPoint), s.Runs .mu (.lmr a n) → s.mu.phase = .mr p →
    let s' := { s with mu := { s.mu with lop := .none } }
    (∀ t, exec (.mr s.mu.a) s' = .next t → t.mu.phase ≠ .idle →
      exec (.lmr a n) s = .next { t with mu := { t.mu with lop := .lmr } }) ∧
    (∀ f, exec (.mr s.mu.a) s' = .fault f ↔ exec (.lmr a n) s = .fault f)) ∧
  (∀ (s : State) (k : Nat) (u : SlaveUnit) (p : SlavePoint) (i j : Instr), s.su[k]? = some u → s.Runs (.su k) i →
    u.phase = .word p → p ≠ .ackRel → p ≠ .txnAckRel → (∃ a n, i = .lsw a n ∨ i = .lsr a n) →
    { u with lop := .none }.current = some j →
    exec i s = mapNext (State.restoreLop k u.lop) (exec j { s with su := s.su.set k { u with lop := .none } }))

/-- LMW's own segments (43_media_access.md R123): from its entry, and from the completion of a called MW (`MW_WAIT_REL` with
`ack` 0; `TMW_HOLD`), the loop runs to its next call, which drives the operation's own address and the packed word as MW
does, or to the completion. `served := false` at a call is the model's record of a match (log entry 5). -/
def Obligations.MasterBufferWriteSegments : Prop :=
  ∀ (s : State) (a : Addr) (n : Len) (l : Link) (more : Bool), s.Runs .mu (.lmw a n) →
    (s.mu.phase = .lmwStart ∧ s.mu.link.writeEntry s.cfg.dataWidth = (l, more)) ∨
      (((s.mu.phase = .mw .waitRel ∧ s.bus.ack = false) ∨ s.mu.phase = .mw .txnHold) ∧
        s.mu.link.writeReturn s.cfg.dataWidth = (l, more)) →
    exec (.lmw a n) s = .next (
      match more, s.cfg.variant with
      | true, .pin => { s with
          served := false
          bus := { s.bus with address := some a, data := some l.acc }
          mu := { s.mu with
            phase := .mw .setup, susp := .until (s.now + s.cfg.tSetup), a := a, d := l.acc, link := l } }
      | true, .txn => { s with
          served := false
          txn := ⟨some a, some l.acc⟩
          mu := { s.mu with
            phase := .mw .txnSetup, susp := .until (s.now + s.cfg.tSetup), a := a, d := l.acc, link := l } }
      | false, _ => { s with
          mu := { s.mu with
            phase := .idle, susp := .none, lop := .none, link := l,
            port := ⟨s.mu.port.todo, some ⟨s.now, .nothing⟩⟩ } })

/-- LMR's own segments (43_media_access.md R125): from its entry, and from the completion of a called MR with the word in
`MU.Q`, the loop runs to its next call, which drives the operation's own address as MR does, or to the completion, which
returns the buffer. `served := false` at a call is the model's record of a match (log entry 5). -/
def Obligations.MasterBufferReadSegments : Prop :=
  ∀ (s : State) (a : Addr) (n : Len) (l : Link) (more : Bool), s.Runs .mu (.lmr a n) →
    (s.mu.phase = .lmrStart ∧ s.mu.link.readEntry s.cfg.dataWidth = (l, more)) ∨
      (((s.mu.phase = .mr .waitRel ∧ s.bus.ack = false) ∨ s.mu.phase = .mr .txnHold) ∧
        s.mu.link.readReturn s.cfg.dataWidth s.mu.q = (l, more)) →
    exec (.lmr a n) s = .next (
      match more, s.cfg.variant with
      | true, .pin => { s with
          served := false
          bus := { s.bus with address := some a }
          mu := { s.mu with
            phase := .mr .setup, susp := .until (s.now + s.cfg.tSetup), a := a, link := l } }
      | true, .txn => { s with
          served := false
          txn := { s.txn with pendingAddress := some a }
          mu := { s.mu with
            phase := .mr .txnSetup, susp := .until (s.now + s.cfg.tSetup), a := a, link := l } }
      | false, _ => { s with
          mu := { s.mu with
            phase := .idle, susp := .none, lop := .none, link := l,
            port := ⟨s.mu.port.todo, some ⟨s.now, .buffer l.buf⟩⟩ } })

/-- LSW's own segments (43_media_access.md R127): from its entry, and from the end of a called SW (which drops `ack` under
`PIN`), the loop runs to its next call, whose SW starts in the same segment on the operation's own address and the packed
word, or to the completion. -/
def Obligations.SlaveBufferWriteSegments : Prop :=
  ∀ (s b : State) (k : Nat) (u : SlaveUnit) (a : Addr) (n : Len) (l : Link) (more : Bool),
    s.su[k]? = some u → s.Runs (.su k) (.lsw a n) →
    (u.phase = .lswStart ∧ u.link.writeEntry s.cfg.dataWidth = (l, more) ∧ b = s) ∨
      (u.phase = .word .ackRel ∧ u.link.writeReturn s.cfg.dataWidth = (l, more) ∧
        b = { s with bus := { s.bus with ack := false } }) ∨
      (u.phase = .word .txnAckRel ∧ u.link.writeReturn s.cfg.dataWidth = (l, more) ∧ b = s.notify .ackNotice) →
    (more = true →
      exec (.lsw a n) s = mapNext (State.restoreLop k u.lop) (exec (.sw a l.acc) { b with
        su := b.su.set k { u with
          phase := .word .start, susp := .none, lop := .none, a := a, d := l.acc, dir := .drive, link := l } })) ∧
    (more = true → s.cfg.variant = .pin → s.bus.ready = false →
      exec (.lsw a n) s = .next { b with
        su := b.su.set k { u with
          phase := .word .waitReady, susp := .level .ready true, a := a, d := l.acc, dir := .drive, link := l } }) ∧
    (more = false →
      exec (.lsw a n) s = .next { b with
        su := b.su.set k { u with
          phase := .idle, susp := .none, lop := .none, link := l, port := ⟨u.port.todo, some ⟨s.now, .nothing⟩⟩ } })

/-- LSR's own segments (43_media_access.md R128): from its entry, and from the end of a called SR with the word in `SU[k].Q`,
the loop runs to its next call, whose SR starts in the same segment on the operation's own address, or to the completion,
which returns the buffer. -/
def Obligations.SlaveBufferReadSegments : Prop :=
  ∀ (s b : State) (k : Nat) (u : SlaveUnit) (a : Addr) (n : Len) (l : Link) (more : Bool),
    s.su[k]? = some u → s.Runs (.su k) (.lsr a n) →
    (u.phase = .lsrStart ∧ u.link.readEntry s.cfg.dataWidth = (l, more) ∧ b = s) ∨
      (u.phase = .word .ackRel ∧ u.link.readReturn s.cfg.dataWidth u.q = (l, more) ∧
        b = { s with bus := { s.bus with ack := false } }) ∨
      (u.phase = .word .txnAckRel ∧ u.link.readReturn s.cfg.dataWidth u.q = (l, more) ∧ b = s.notify .ackNotice) →
    (more = true →
      exec (.lsr a n) s = mapNext (State.restoreLop k u.lop) (exec (.sr a) { b with
        su := b.su.set k { u with
          phase := .word .start, susp := .none, lop := .none, a := a, dir := .capture, link := l } })) ∧
    (more = true → s.cfg.variant = .pin → s.bus.ready = false →
      exec (.lsr a n) s = .next { b with
        su := b.su.set k { u with
          phase := .word .waitReady, susp := .level .ready true, a := a, dir := .capture, link := l } }) ∧
    (more = false →
      exec (.lsr a n) s = .next { b with
        su := b.su.set k { u with
          phase := .idle, susp := .none, lop := .none, link := l,
          port := ⟨u.port.todo, some ⟨s.now, .buffer l.buf⟩⟩ } })

/-- The count law and the packing law (43_media_access.md R130, and R39, R42, R124, R126, R129 with it). Write direction:
call number `j` happens exactly for `j < ceil(LEN / DATA_BYTES)`, and byte `k` of its word, counted from the most significant, is
`buf[j * DATA_BYTES + k]`, or 0 from `LEN` on. Read direction: `buf[i]` receives byte `i mod DATA_BYTES` of word
`floor(i / DATA_BYTES)`, and nothing at or beyond `LEN` is written. The address and the length stay. -/
def Obligations.CountLawAndPackingLaw : Prop :=
  (∀ (dw : DataWidth) (l : Link) (j : Nat), j ≤ l.calls dw →
    ((l.writeCall dw j).2 = true ↔ j < l.calls dw) ∧
    (l.writeCall dw j).1.laddr = l.laddr ∧ (l.writeCall dw j).1.len = l.len ∧ (l.writeCall dw j).1.buf = l.buf ∧
    (j < l.calls dw →
      dw.fits (l.writeCall dw j).1.acc = true ∧
      ∀ k < dw.bytes, wordByte dw (l.writeCall dw j).1.acc k =
        if j * dw.bytes + k < l.len.toNat then l.buf.read (j * dw.bytes + k) else 0)) ∧
  (∀ (dw : DataWidth) (l : Link) (qs : Nat → Word) (j : Nat), l.buf.wf = true → l.len.toNat ≤ l.buf.size →
    j ≤ l.calls dw →
    ((l.readCall dw qs j).2 = true ↔ j < l.calls dw) ∧
    (l.readCall dw qs j).1.laddr = l.laddr ∧ (l.readCall dw qs j).1.len = l.len ∧
    (l.readCall dw qs j).1.buf.size = l.buf.size ∧
    ∀ i, (l.readCall dw qs j).1.buf.read i =
      if i < j * dw.bytes ∧ i < l.len.toNat then wordByte dw (qs (i / dw.bytes)) (i % dw.bytes) else l.buf.read i)

/-- Length zero (43_media_access.md R131): each link-level operation completes in its first segment, in the instant it was
issued; no signal is written and the buffer is as it was. -/
def Obligations.LengthZeroCompletesAtOnce : Prop :=
  (∀ (s : State) (a : Addr), s.Runs .mu (.lmw a 0) → s.mu.phase = .lmwStart →
    exec (.lmw a 0) s = .next { s with
      mu := { s.mu with
        phase := .idle, susp := .none, lop := .none, link := { s.mu.link with idx := 0, acc := 0, cnt := 0 },
        port := ⟨s.mu.port.todo, some ⟨s.now, .nothing⟩⟩ } }) ∧
  (∀ (s : State) (a : Addr), s.Runs .mu (.lmr a 0) → s.mu.phase = .lmrStart →
    exec (.lmr a 0) s = .next { s with
      mu := { s.mu with
        phase := .idle, susp := .none, lop := .none, link := { s.mu.link with idx := 0 },
        port := ⟨s.mu.port.todo, some ⟨s.now, .buffer s.mu.link.buf⟩⟩ } }) ∧
  (∀ (s : State) (k : Nat) (u : SlaveUnit) (a : Addr), s.su[k]? = some u → s.Runs (.su k) (.lsw a 0) →
    u.phase = .lswStart →
    exec (.lsw a 0) s = .next { s with
      su := s.su.set k { u with
        phase := .idle, susp := .none, lop := .none, link := { u.link with idx := 0, acc := 0, cnt := 0 },
        port := ⟨u.port.todo, some ⟨s.now, .nothing⟩⟩ } }) ∧
  (∀ (s : State) (k : Nat) (u : SlaveUnit) (a : Addr), s.su[k]? = some u → s.Runs (.su k) (.lsr a 0) →
    u.phase = .lsrStart →
    exec (.lsr a 0) s = .next { s with
      su := s.su.set k { u with
        phase := .idle, susp := .none, lop := .none, link := { u.link with idx := 0 },
        port := ⟨u.port.todo, some ⟨s.now, .buffer u.link.buf⟩⟩ } })

/-- The document's concrete scenario (43_media_access.md R134): with `DATA_WIDTH` = 32, LMW of the four bytes 0x41 to 0x44 to
0x0010 makes one call of MW, of 0x41424344 to 0x0010; of the two bytes 0x41, 0x42 one call, of 0x41420000. The buffer is any
that begins with those bytes. -/
def Obligations.TheDocumentsBufferWrites : Prop :=
  ∀ (s : State) (n : Len) (w : Word), s.cfg.dataWidth = .w32 → s.Runs .mu (.lmw 0x0010 n) →
    (n = 4 ∧ w = 0x41424344 ∧ s.mu.link.buf.read 2 = 0x43 ∧ s.mu.link.buf.read 3 = 0x44) ∨ (n = 2 ∧ w = 0x41420000) →
    s.mu.link.buf.read 0 = 0x41 → s.mu.link.buf.read 1 = 0x42 →
    (s.mu.phase = .lmwStart →
      ∃ t, exec (.lmw 0x0010 n) s = .next t ∧
        (s.cfg.variant = .pin →
          t.mu.phase = .mw .setup ∧ t.bus.address = some 0x0010 ∧ t.bus.data = some w) ∧
        (s.cfg.variant = .txn → t.mu.phase = .mw .txnSetup ∧ t.txn = ⟨some 0x0010, some w⟩) ∧
        t.mu.a = 0x0010 ∧ t.mu.d = w ∧ t.mu.link = (s.mu.link.writeCall .w32 0).1) ∧
    (∀ l : Link, (s.mu.phase = .mw .waitRel ∧ s.bus.ack = false) ∨ s.mu.phase = .mw .txnHold →
      s.mu.link = (l.writeCall .w32 0).1 →
      ∃ t, exec (.lmw 0x0010 n) s = .next t ∧ t.mu.phase = .idle ∧ t.bus = s.bus ∧ t.txn = s.txn ∧
        t.mu.port.done = some ⟨s.now, .nothing⟩)

/-- The buffer primitives (20_memory.md R40, R41): after a write of byte `i` inside the buffer a read of `i` gives the byte,
every other byte reads as before, and the size stays. That a write outside the buffer, which R41 never makes, changes
nothing, and that equal buffers are equal data, is the model's choice (log entry 6). -/
def Obligations.BufferReadAfterWrite : Prop :=
  ∀ (b : Buffer) (i j : Nat) (v : Byte), b.wf = true →
    (b.write i v).read j = (if j = i ∧ i < b.size then v else b.read j) ∧
    (b.write i v).size = b.size ∧ (b.write i v).wf = true ∧
    (∀ c : Buffer, c.wf = true → c.size = b.size → (∀ m, c.read m = b.read m) → c = b)

/-! ## The interrupt -/

/-- ISEND (44_interrupt.md R136): it drives `intr` to 1 and waits `T_PULSE`; then it drives `intr` to 0 and completes. The rising
edge wakes every receiver armed at that moment (40_execution_model.md R83, decision D19; R143, D20) and leaves the bus, the
cells and every register, phase and buffer of every other unit; a write of 1 while the line is 1 and the falling edge wake
nobody. -/
def Obligations.SendIsAPulse : Prop :=
  ∀ s : State,
    (s.Idle .is →
      exec .isend s = .next { s with snd := { s.snd with
        phase := .start, susp := .none, port := ⟨s.snd.port.todo, none⟩ } }) ∧
    (s.Runs .is .isend → s.snd.phase = .start → s.intr = false →
      ∃ t, exec .isend s = .next t ∧
        t = { s.wake .edge with
          intr := true, snd := { s.snd with phase := .pulse, susp := .until (s.now + s.cfg.tPulse) } } ∧
        t.bus = s.bus ∧ t.txn = s.txn ∧ { s with snd := t.snd }.UnitsKeepAllButSusp t ∧
        (∀ u, u ≠ .is → t.suspOf u = if s.suspOf u = some .edge then some .none else s.suspOf u) ∧
        ∀ (j : Nat) (u : ReceiverUnit), s.rcv[j]? = some u → u.phase = .armed → u.susp = .edge →
          t.enabled (.ir j) = true) ∧
    (s.Runs .is .isend → s.snd.phase = .start → s.intr = true →
      exec .isend s = .next { s with
        snd := { s.snd with phase := .pulse, susp := .until (s.now + s.cfg.tPulse) } }) ∧
    (s.Runs .is .isend → s.snd.phase = .pulse →
      exec .isend s = .next { s with
        intr := false
        snd := { s.snd with
          phase := .idle, susp := .none, port := ⟨s.snd.port.todo, some ⟨s.now, .nothing⟩⟩ } })

/-- IRECV (44_interrupt.md R137, R139): it always suspends on the edge, whatever `intr` is, and completes in the segment after
it is woken. -/
def Obligations.ReceiveWaitsForAnEdge : Prop :=
  ∀ (s : State) (j : Nat) (u : ReceiverUnit), s.rcv[j]? = some u →
    (s.Idle (.ir j) →
      exec .irecv s = .next { s with
        rcv := s.rcv.set j { u with phase := .start, susp := .none, port := ⟨u.port.todo, none⟩ } }) ∧
    (s.Runs (.ir j) .irecv → u.phase = .start →
      ∃ t, exec .irecv s = .next t ∧ t = { s with rcv := s.rcv.set j { u with phase := .armed, susp := .edge } } ∧
        t.enabled (.ir j) = false) ∧
    (s.Runs (.ir j) .irecv → u.phase = .armed →
      exec .irecv s = .next { s with
        rcv := s.rcv.set j { u with
          phase := .idle, susp := .none, port := ⟨u.port.todo, some ⟨s.now, .nothing⟩⟩ } })

/-- No queuing (44_interrupt.md R138; 60_exceptions.md R151): a pulse that meets no unit waiting for an edge changes the line
and the sender and nothing else, so it leaves no trace for a later IRECV. -/
def Obligations.AnUnseenPulseLeavesNoTrace : Prop :=
  ∀ s t : State, s.waiters .edge = [] → exec .isend s = .next t →
    t = { s with intr := t.intr, snd := t.snd }

/-- An armed receiver is woken by nothing but a rising edge, and completes in no step in which it was not woken before
(44_interrupt.md R139, R140; 40_execution_model.md R83): from a state in which it is suspended on the edge with `intr` 1 no step
ends its wait. -/
def Obligations.ArmingInMidPulseWaitsForTheNextPulse : Prop :=
  ∀ (s t : State) (j : Nat) (u : ReceiverUnit), s.rcv[j]? = some u → u.phase = .armed → u.susp = .edge →
    s.intr = true → step s = .next t →
    ∃ v, t.rcv[j]? = some v ∧ v.phase = .armed ∧ v.susp = .edge ∧ v.port.done = u.port.done

/-- The synchronous edge detector (44_interrupt.md R144, decision D19; the sampling points are the model's, log entry 7): time
that passes with the line at 1 over a sampling point leaves every receiver, armed or not, with the previous-sample bit 1, so
one armed in mid-pulse sees no edge; and over a sampling point with the line at 0 the bit is 0, so an armed one sees the next
rise. -/
def Obligations.TheClockedDetectorSeesOnlyEdges : Prop :=
  ∀ (s : State) (n m : Nat), s.cfg.clocked = true → s.now ≤ m * s.cfg.tTick → m * s.cfg.tTick < n →
    1 ≤ s.cfg.tTick →
    ∀ u ∈ (s.advance n).rcv, u.prev = s.intr ∧ (s.intr = true → u.detects true = false) ∧
      (s.intr = false → u.phase = .armed → u.detects true = true)

/-! ## Frames -/

/-- The frame of MW and MR (10_state.md R35, R21): of the shared state they may write `ready`, the address cell and, MW only,
the data cell of their variant, the address and data only in the first segment and `ready` only after the setup and the
hold; of `MU` they change `PHASE`, `SUSP`, the completion indication, `A` and `D` at issue, MR also `Q`; every other unit keeps
everything (under `TXN` the setup's end wakes the waiters of `readyNotice`); every byte of every buffer stays. `served` is the
model's record (log entry 5); that the registers stay at completion too is its choice (log entry 13). -/
def Obligations.MasterWordFrame : Prop :=
  ∀ (s t : State) (i : Instr), (∃ a d, i = .mw a d) ∨ (∃ a, i = .mr a) → exec i s = .next t →
    t.cfg = s.cfg ∧ t.now = s.now ∧ t.intr = s.intr ∧ t.sel = s.sel ∧ t.handed = s.handed ∧ t.agenda = s.agenda ∧
    t.tick = s.tick ∧ t.drawn = s.drawn ∧ t.bus.ack = s.bus.ack ∧
    (s.mu.phase ≠ .mw .start → s.mu.phase ≠ .mr .start →
      t.bus.address = s.bus.address ∧ t.bus.data = s.bus.data ∧ t.txn = s.txn ∧ t.served = s.served) ∧
    ((∃ a, i = .mr a) → t.bus.data = s.bus.data ∧ t.txn.pendingData = s.txn.pendingData ∧ t.mu.d = s.mu.d) ∧
    (s.cfg.variant = .pin → t.txn = s.txn) ∧
    (s.cfg.variant = .txn → t.bus.address = s.bus.address ∧ t.bus.data = s.bus.data) ∧
    (s.mu.phase ∉ [.mw .setup, .mw .hold, .mr .setup, .mr .hold] → t.bus.ready = s.bus.ready) ∧
    (s.mu.phase ≠ .idle → t.mu.a = s.mu.a ∧ t.mu.d = s.mu.d) ∧
    ((∃ a d, i = .mw a d) → t.mu.q = s.mu.q) ∧
    t.mu.lop = s.mu.lop ∧ t.mu.link = s.mu.link ∧ t.mu.port.todo = s.mu.port.todo ∧
    (∀ x, t.mu.link.buf.read x = s.mu.link.buf.read x) ∧
    (s.mu.phase ≠ .mw .txnSetup → s.mu.phase ≠ .mr .txnSetup → t.su = s.su ∧ t.snd = s.snd ∧ t.rcv = s.rcv) ∧
    (s.mu.phase = .mw .txnSetup ∨ s.mu.phase = .mr .txnSetup →
      t.su = (s.notify .readyNotice).su ∧ t.snd = (s.notify .readyNotice).snd ∧ t.rcv = (s.notify .readyNotice).rcv)

/-- The frame of SR and SW (10_state.md R35, R21): of the shared state they may write `ack`, after the service and the release,
and, SW only, the data cell of their variant; of `SU[k]` they change `PHASE`, `SUSP`, the completion indication, `A`, `DIR` and (SW) `D`
at issue, SR also `Q`; every other unit keeps everything (under `TXN` the release's end wakes the waiters of `ackNotice`);
every byte of every buffer stays. `served` is the model's record (log entry 5); that the registers stay at completion too is
its choice (log entry 13). -/
def Obligations.SlaveWordFrame : Prop :=
  ∀ (s t : State) (k : Nat) (u : SlaveUnit) (i : Instr), (∃ a, i = .sr a) ∨ (∃ a d, i = .sw a d) → s.sel = .su k →
    s.su[k]? = some u → exec i s = .next t →
    t.cfg = s.cfg ∧ t.now = s.now ∧ t.intr = s.intr ∧ t.sel = s.sel ∧ t.handed = s.handed ∧ t.agenda = s.agenda ∧
    t.tick = s.tick ∧ t.drawn = s.drawn ∧ t.bus.ready = s.bus.ready ∧ t.bus.address = s.bus.address ∧
    t.txn.pendingAddress = s.txn.pendingAddress ∧
    ((∃ a, i = .sr a) → t.bus.data = s.bus.data ∧ t.txn = s.txn) ∧
    (s.bus.ready = false → t.bus.data = s.bus.data) ∧
    (s.cfg.variant = .pin → u.phase.isPin = true → t.txn = s.txn) ∧
    (s.cfg.variant = .txn → u.phase.isTxn = true → t.bus = s.bus) ∧
    (u.phase ≠ .word .service → u.phase ≠ .word .ackRel → t.bus.ack = s.bus.ack) ∧
    (t.served = s.served ∨ t.served = true) ∧
    (∃ v, t.su[k]? = some v ∧ v.lop = u.lop ∧ v.link = u.link ∧ v.port.todo = u.port.todo ∧
      (u.phase ≠ .idle → v.a = u.a ∧ v.d = u.d ∧ v.dir = u.dir) ∧
      ((∃ a, i = .sr a) → v.d = u.d) ∧ ((∃ a d, i = .sw a d) → v.q = u.q) ∧
      ∀ x, v.link.buf.read x = u.link.buf.read x) ∧
    (u.phase ≠ .word .txnAckRel →
      t.mu = s.mu ∧ t.snd = s.snd ∧ t.rcv = s.rcv ∧ ∀ m, m ≠ k → t.su[m]? = s.su[m]?) ∧
    (u.phase = .word .txnAckRel →
      t.mu = (s.notify .ackNotice).mu ∧ t.snd = (s.notify .ackNotice).snd ∧ t.rcv = (s.notify .ackNotice).rcv ∧
      ∀ m, m ≠ k → t.su[m]? = (s.notify .ackNotice).su[m]?)

/-- The frame of LMW and LMR (43_media_access.md R121, R123, R125; 20_memory.md R40): the shared state is touched only as MW and MR
touch it: address and data only where a call starts, data only by LMW, only those of the variant, `ready` only at the end of
the setup and the hold; every other unit keeps everything (under `TXN` the setup's end wakes the waiters of `readyNotice`).
Inside a call, the hold's end with `ack` 1 included, no register but `Q`, and that under LMR only, changes; LMW never changes a byte of its buffer, LMR only the
bytes from `IDX` up to `IDX + DATA_BYTES`, and, where `IDX` and the buffer are in range, none at or beyond `LEN`. `served` is the
model's record (log entry 5); that the registers stay at issue and completion is its choice (log entry 13). -/
def Obligations.MasterLinkFrame : Prop :=
  ∀ (s t : State) (i : Instr), (∃ a n, i = .lmw a n) ∨ (∃ a n, i = .lmr a n) → exec i s = .next t →
    t.cfg = s.cfg ∧ t.now = s.now ∧ t.intr = s.intr ∧ t.sel = s.sel ∧ t.handed = s.handed ∧ t.agenda = s.agenda ∧
    t.tick = s.tick ∧ (s.mu.phase ≠ .idle → t.drawn = s.drawn) ∧ t.bus.ack = s.bus.ack ∧ t.mu.port.todo = s.mu.port.todo ∧
    (s.cfg.variant = .pin → t.txn = s.txn) ∧
    (s.cfg.variant = .txn → t.bus.address = s.bus.address ∧ t.bus.data = s.bus.data) ∧
    (s.mu.phase ∉ [.mw .setup, .mw .hold, .mr .setup, .mr .hold] → t.bus.ready = s.bus.ready) ∧
    (s.mu.phase ∈ [.mw .setup, .mw .waitAck, .mw .txnSetup, .mw .txnWaitAck,
        .mr .setup, .mr .waitAck, .mr .txnSetup, .mr .txnWaitAck] →
      t.bus.address = s.bus.address ∧ t.bus.data = s.bus.data ∧ t.txn = s.txn ∧ t.served = s.served ∧
      t.mu.a = s.mu.a ∧ t.mu.d = s.mu.d ∧ t.mu.lop = s.mu.lop ∧ t.mu.link = s.mu.link) ∧
    (s.mu.phase ∈ [.mw .hold, .mw .waitRel, .mr .hold, .mr .waitRel] → s.bus.ack = true →
      t.bus.address = s.bus.address ∧ t.bus.data = s.bus.data ∧ t.txn = s.txn ∧ t.served = s.served ∧
      t.mu.a = s.mu.a ∧ t.mu.d = s.mu.d ∧ t.mu.q = s.mu.q ∧ t.mu.lop = s.mu.lop ∧ t.mu.link = s.mu.link) ∧
    (s.mu.phase = .idle →
      t.bus = s.bus ∧ t.txn = s.txn ∧ t.served = s.served ∧ t.mu.a = s.mu.a ∧ t.mu.d = s.mu.d ∧ t.mu.q = s.mu.q) ∧
    (s.mu.phase ≠ .mw .txnSetup → s.mu.phase ≠ .mr .txnSetup → t.su = s.su ∧ t.snd = s.snd ∧ t.rcv = s.rcv) ∧
    (s.mu.phase = .mw .txnSetup ∨ s.mu.phase = .mr .txnSetup →
      t.su = (s.notify .readyNotice).su ∧ t.snd = (s.notify .readyNotice).snd ∧ t.rcv = (s.notify .readyNotice).rcv) ∧
    ((∃ a n, i = .lmr a n) → t.bus.data = s.bus.data ∧ t.txn.pendingData = s.txn.pendingData ∧ t.mu.d = s.mu.d) ∧
    ((∃ a n, i = .lmw a n) → t.mu.q = s.mu.q) ∧
    (s.mu.phase ≠ .idle →
      t.mu.link.laddr = s.mu.link.laddr ∧ t.mu.link.len = s.mu.link.len ∧
      t.mu.link.buf.size = s.mu.link.buf.size ∧
      ((∃ a n, i = .lmw a n) → t.mu.link.buf = s.mu.link.buf) ∧
      (∀ x, x < s.mu.link.idx ∨ s.mu.link.idx + s.cfg.dataWidth.bytes ≤ x ∨
          (s.mu.link.ReadOk ∧ s.mu.link.len.toNat ≤ x) →
        t.mu.link.buf.read x = s.mu.link.buf.read x))

/-- The frame of LSW and LSR (43_media_access.md R121, R127, R128; 20_memory.md R40): the shared state is touched only as SW and SR
touch it: data only by LSW, and not while `ready` is 0, only the data cell of the variant, `ack` only after the service and
the release; every other unit keeps everything (under `TXN` the release's end wakes the waiters of `ackNotice`). Inside a
call no register but `Q`, and that under LSR only, changes; LSW never changes a byte of its buffer, LSR only the bytes from
`IDX` up to `IDX + DATA_BYTES`, and, where `IDX` and the buffer are in range, none at or beyond `LEN`. The clauses that tell LSW and
LSR apart inside a call assume that it calls SW or SR as R127 and R128 say, which every step keeps (`LopFits`). `served` is the
model's record (log entry 5); that the registers stay at issue and completion is its choice (log entry 13). -/
def Obligations.SlaveLinkFrame : Prop :=
  ∀ (s t : State) (k : Nat) (u : SlaveUnit) (i : Instr), (∃ a n, i = .lsw a n) ∨ (∃ a n, i = .lsr a n) →
    s.sel = .su k → s.su[k]? = some u → exec i s = .next t →
    t.cfg = s.cfg ∧ t.now = s.now ∧ t.intr = s.intr ∧ t.sel = s.sel ∧ t.handed = s.handed ∧ t.agenda = s.agenda ∧
    t.tick = s.tick ∧ (u.phase ≠ .idle → t.drawn = s.drawn) ∧ t.bus.ready = s.bus.ready ∧ t.bus.address = s.bus.address ∧
    t.txn.pendingAddress = s.txn.pendingAddress ∧
    ((∃ a n, i = .lsr a n) → u.LopFits → t.bus.data = s.bus.data ∧ t.txn = s.txn) ∧
    (s.bus.ready = false → t.bus.data = s.bus.data) ∧
    (s.cfg.variant = .pin → u.phase.isPin = true → t.txn = s.txn) ∧
    (s.cfg.variant = .txn → u.phase.isTxn = true → t.bus = s.bus) ∧
    (u.phase ≠ .word .service → u.phase ≠ .word .ackRel → t.bus.ack = s.bus.ack) ∧
    (t.served = s.served ∨ t.served = true) ∧
    (∃ v, t.su[k]? = some v ∧ v.port.todo = u.port.todo ∧
      ((∃ a n, i = .lsr a n) → v.d = u.d) ∧
      ((∃ a n, i = .lsw a n) → u.LopFits → v.q = u.q) ∧
      (u.phase = .idle → v.a = u.a ∧ v.d = u.d ∧ v.q = u.q ∧ v.dir = u.dir ∧ t.bus = s.bus ∧ t.txn = s.txn) ∧
      (∀ p, u.phase = .word p → p ≠ .ackRel → p ≠ .txnAckRel →
        v.a = u.a ∧ v.d = u.d ∧ v.dir = u.dir ∧ v.lop = u.lop ∧ v.link = u.link) ∧
      (u.phase ≠ .idle →
        v.link.laddr = u.link.laddr ∧ v.link.len = u.link.len ∧ v.link.buf.size = u.link.buf.size ∧
        ((∃ a n, i = .lsw a n) → v.link.buf = u.link.buf) ∧
        (∀ x, x < u.link.idx ∨ u.link.idx + s.cfg.dataWidth.bytes ≤ x ∨ (u.link.ReadOk ∧ u.link.len.toNat ≤ x) →
          v.link.buf.read x = u.link.buf.read x))) ∧
    (u.phase ≠ .word .txnAckRel →
      t.mu = s.mu ∧ t.snd = s.snd ∧ t.rcv = s.rcv ∧ ∀ m, m ≠ k → t.su[m]? = s.su[m]?) ∧
    (u.phase = .word .txnAckRel →
      t.mu = (s.notify .ackNotice).mu ∧ t.snd = (s.notify .ackNotice).snd ∧ t.rcv = (s.notify .ackNotice).rcv ∧
      ∀ m, m ≠ k → t.su[m]? = (s.notify .ackNotice).su[m]?)

/-- The frame of ISEND and IRECV (44_interrupt.md R135; 60_exceptions.md R153): they touch no bus signal, no buffer and no
register of a bus unit; ISEND writes `intr` and its own unit, and its rising edge the suspension of those that wait for it;
IRECV writes its own unit and never the line or the previous-sample bit. -/
def Obligations.InterruptFrame : Prop :=
  (∀ s t : State, exec .isend s = .next t →
    t = { s with intr := t.intr, snd := t.snd } ∨
    (s.intr = false ∧ t.intr = true ∧ t = { s.wake .edge with intr := true, snd := t.snd })) ∧
  (∀ s t : State, exec .isend s = .next t →
    t.bus = s.bus ∧ t.txn = s.txn ∧ t.cfg = s.cfg ∧ t.now = s.now ∧ { s with snd := t.snd }.UnitsKeepAllButSusp t ∧
      t.snd.port.todo = s.snd.port.todo) ∧
  (∀ s t : State, exec .irecv s = .next t →
    ∃ j u v, s.sel = .ir j ∧ s.rcv[j]? = some u ∧ t = { s with rcv := s.rcv.set j v } ∧
      v.prev = u.prev ∧ v.port.todo = u.port.todo)

/-! ## Invariants -/

/-- The machine right after reset, in every configuration, meets every invariant stated below (`Handshake` under `PIN`). -/
def Obligations.ResetMeetsTheInvariants : Prop :=
  ∀ c : Config,
    (State.resetWith c).WidthsFit ∧ (State.resetWith c).Timely ∧ (State.resetWith c).LinksFit ∧
    (State.resetWith c).PulseShown ∧ (c.variant = .pin → (State.resetWith c).Handshake)

/-- Every step keeps every data word a value of `DATA_WIDTH` bits (00_scope.md R8; 43_media_access.md R122). -/
def Obligations.EveryStepKeepsTheWordsInWidth : Prop :=
  ∀ s t : State, s.WidthsFit → step s = .next t → t.WidthsFit

/-- No step oversleeps a `waitfor` or leaves an idle unit suspended (40_execution_model.md R80, R85, R87). -/
def Obligations.EveryStepKeepsTheTimers : Prop :=
  ∀ s t : State, s.Timely → step s = .next t → t.Timely

/-- Every step keeps the link registers in their ranges, `LEN` a value of `LEN_WIDTH` bits, `IDX` at most `LEN` and `CNT` at most
`DATA_BYTES`, `LOP` in agreement with `PHASE` and `DIR`, and every buffer in canonical form and of its size (10_state.md R28;
20_memory.md R41; 43_media_access.md R122, R123, R125, R127, R128). -/
def Obligations.EveryStepKeepsTheLinkRegistersInRange : Prop :=
  ∀ s t : State, s.LinksFit → step s = .next t → t.LinksFit

/-- Every step keeps the handshake invariant of the pin-accurate block: the four invariants of 10_state.md R20, the
alternation of 41_handshake_pin.md R102 and the delivery of R103. -/
def Obligations.EveryStepKeepsTheHandshake : Prop :=
  ∀ s t : State, s.Handshake → step s = .next t → t.Handshake

/-- The line `intr` is 1 exactly while the sender is in its pulse (44_interrupt.md R136, R140). -/
def Obligations.EveryStepKeepsThePulse : Prop :=
  ∀ s t : State, s.PulseShown → step s = .next t → t.PulseShown

/-! ## Whole transfers -/

/-- Delivery (41_handshake_pin.md R103; 20_memory.md R51), from every state of the handshake invariant: an SR that completes
returns the word of the MW it served, at the address of that MW; when an SW completes, the MR it served has sampled its word
and is at the end of its wait, so that MR returns it. -/
def Obligations.CompletionDeliversTheWord : Prop :=
  ∀ (s : State) (k : Nat) (u : SlaveUnit), s.Handshake → s.su[k]? = some u → u.phase = .word .ackRel →
    s.bus.ready = false ∧ s.bus.address = some u.a ∧ u.a = s.mu.a ∧
    (∀ a, s.Runs (.su k) (.sr a) →
      s.mu.phase = .mw .waitRel ∧
      ∃ t v, exec (.sr a) s = .next t ∧ t.su[k]? = some v ∧ v.port.done = some ⟨s.now, .word s.mu.d⟩ ∧ a = s.mu.a ∧
        t.bus.ready = false ∧ t.bus.ack = false) ∧
    (∀ a d, s.Runs (.su k) (.sw a d) →
      s.mu.phase = .mr .waitRel ∧
      ∃ t, exec (.sw a d) s = .next t ∧ t.mu.q = d ∧ a = s.mu.a ∧ t.bus.ready = false ∧ t.bus.ack = false)

/-- The timeline of a well-paired write under `PIN` (41_handshake_pin.md R100, R104): MW(a, d) about to start, one SR(a) already
waiting, everything else at rest. The run reaches the instants of R100 with the lines as it says, and ends with both sides
complete at `T_SETUP + T_SLAVE + T_WHOLD + T_ACKREL` after the start and SR holding `d`. That sum is the 34000 of R100 with the
default delays, and the 15000 of R104 where `T_SLAVE` and `T_ACKREL` are 0. -/
def Obligations.TimelineOfAWrite : Prop :=
  ∀ (s : State) (a : Addr) (d : Word) (u : SlaveUnit), s.cfg.legal = true → s.cfg.variant = .pin →
    s.current .mu = some (.mw a d) → s.mu.phase = .mw .start → s.mu.susp = .none → s.mu.port.todo = [] →
    s.su = [u] → u.current = some (.sr a) → u.phase = .word .waitReady → u.susp = .level .ready true →
    u.port.todo = [] → s.bus.ready = false → s.bus.ack = false → s.Rests .is →
    (∀ r ∈ s.rcv, r.phase = .idle ∧ r.port.todo = []) →
    ∃ s1 s2 s3 s4 : State, s.Reaches s1 ∧ s1.Reaches s2 ∧ s2.Reaches s3 ∧ s3.Reaches s4 ∧
      (s1.now = s.now + s.cfg.tSetup ∧ s1.bus = ⟨true, false, some a, some d⟩ ∧ s1.su.map SlaveUnit.q = [d]) ∧
      (s2.now = s.now + s.cfg.tSetup + s.cfg.tSlave ∧ s2.bus = ⟨true, true, some a, some d⟩) ∧
      (s3.now = s.now + s.cfg.tSetup + s.cfg.tSlave + s.cfg.tWHold ∧ s3.bus = ⟨false, true, some a, some d⟩) ∧
      s4.now = s.now + s.cfg.tSetup + s.cfg.tSlave + s.cfg.tWHold + s.cfg.tAckRel ∧
      s4.bus = ⟨false, false, some a, some d⟩ ∧ s4.mu.port.done = some ⟨s4.now, .nothing⟩ ∧
      s4.su.map (fun v => v.port.done) = [some ⟨s4.now, .word d⟩] ∧ s4.moves = []

/-- The timeline of a well-paired read under `PIN` (41_handshake_pin.md R101, R104), as that of a write: MR samples the word at
the rise of `ack` and both sides complete at `T_SETUP + T_SLAVE + T_RHOLD + T_ACKREL` after the start, MR with `d`. -/
def Obligations.TimelineOfARead : Prop :=
  ∀ (s : State) (a : Addr) (d : Word) (u : SlaveUnit), s.cfg.legal = true → s.cfg.variant = .pin →
    s.current .mu = some (.mr a) → s.mu.phase = .mr .start → s.mu.susp = .none → s.mu.port.todo = [] →
    s.su = [u] → u.current = some (.sw a d) → u.phase = .word .waitReady → u.susp = .level .ready true →
    u.port.todo = [] → s.bus.ready = false → s.bus.ack = false → s.Rests .is →
    (∀ r ∈ s.rcv, r.phase = .idle ∧ r.port.todo = []) →
    ∃ s1 s2 s3 s4 : State, s.Reaches s1 ∧ s1.Reaches s2 ∧ s2.Reaches s3 ∧ s3.Reaches s4 ∧
      (s1.now = s.now + s.cfg.tSetup ∧ s1.bus = ⟨true, false, some a, some d⟩) ∧
      (s2.now = s.now + s.cfg.tSetup + s.cfg.tSlave ∧ s2.bus = ⟨true, true, some a, some d⟩ ∧ s2.mu.q = d) ∧
      (s3.now = s.now + s.cfg.tSetup + s.cfg.tSlave + s.cfg.tRHold ∧ s3.bus = ⟨false, true, some a, some d⟩) ∧
      s4.now = s.now + s.cfg.tSetup + s.cfg.tSlave + s.cfg.tRHold + s.cfg.tAckRel ∧
      s4.bus = ⟨false, false, some a, some d⟩ ∧ s4.mu.port.done = some ⟨s4.now, .word d⟩ ∧
      s4.su.map (fun v => v.port.done) = [some ⟨s4.now, .nothing⟩] ∧ s4.moves = []

/-- The timelines under `TXN` (42_handshake_txn.md R116): one slave-side operation of the pairing direction waits for
`readyNotice`, everything else is at rest. It completes `T_SETUP + T_SLAVE + T_ACKREL` after the start, SR with the word
written; the master, which under MR samples the driven word at that instant, completes `T_WHOLD` (write) or `T_RHOLD` (read)
later, MR with the word. -/
def Obligations.TimelinesUnderTxn : Prop :=
  ∀ (s : State) (a : Addr) (d : Word) (u : SlaveUnit), s.cfg.legal = true → s.cfg.variant = .txn →
    s.mu.susp = .none → s.mu.port.todo = [] → s.su = [u] → u.phase = .word .txnWaitReady →
    u.susp = .notice .readyNotice → u.port.todo = [] → s.Rests .is → (∀ r ∈ s.rcv, r.phase = .idle ∧ r.port.todo = []) →
    (s.current .mu = some (.mw a d) → s.mu.phase = .mw .start → u.current = some (.sr a) →
      ∃ s1 s2 s3 : State, s.Reaches s1 ∧ s1.Reaches s2 ∧ s2.Reaches s3 ∧
        (s1.now = s.now + s.cfg.tSetup ∧ s1.txn = ⟨some a, some d⟩ ∧ s1.su.map SlaveUnit.q = [d]) ∧
        (s2.now = s.now + s.cfg.tSetup + s.cfg.tSlave + s.cfg.tAckRel ∧
          s2.su.map (fun v => v.port.done) = [some ⟨s2.now, .word d⟩]) ∧
        s3.now = s2.now + s.cfg.tWHold ∧ s3.mu.port.done = some ⟨s3.now, .nothing⟩ ∧ s3.moves = []) ∧
    (s.current .mu = some (.mr a) → s.mu.phase = .mr .start → u.current = some (.sw a d) →
      ∃ s1 s2 s3 : State, s.Reaches s1 ∧ s1.Reaches s2 ∧ s2.Reaches s3 ∧
        (s1.now = s.now + s.cfg.tSetup ∧ s1.txn = ⟨some a, some d⟩) ∧
        (s2.now = s.now + s.cfg.tSetup + s.cfg.tSlave + s.cfg.tAckRel ∧ s2.mu.q = d ∧
          s2.su.map (fun v => v.port.done) = [some ⟨s2.now, .nothing⟩]) ∧
        s3.now = s2.now + s.cfg.tRHold ∧ s3.mu.port.done = some ⟨s3.now, .word d⟩ ∧ s3.moves = [])
end

