-- ==== Sys2Proof/Laws/State.lean ====
section
/-! SUPPORT. What each named update of the state writes and what it leaves: one lemma per field, true by definition, so
that no proof unfolds an update. -/

namespace Sys2Proof.Machine

variable (s : State)

/-! `withMu` -/

@[simp] theorem State.withMu_cfg (u : MasterUnit) : (s.withMu u).cfg = s.cfg := rfl

@[simp] theorem State.withMu_now (u : MasterUnit) : (s.withMu u).now = s.now := rfl

@[simp] theorem State.withMu_bus (u : MasterUnit) : (s.withMu u).bus = s.bus := rfl

@[simp] theorem State.withMu_txn (u : MasterUnit) : (s.withMu u).txn = s.txn := rfl

@[simp] theorem State.withMu_intr (u : MasterUnit) : (s.withMu u).intr = s.intr := rfl

@[simp] theorem State.withMu_mu (u : MasterUnit) : (s.withMu u).mu = u := rfl

@[simp] theorem State.withMu_su (u : MasterUnit) : (s.withMu u).su = s.su := rfl

@[simp] theorem State.withMu_snd (u : MasterUnit) : (s.withMu u).snd = s.snd := rfl

@[simp] theorem State.withMu_rcv (u : MasterUnit) : (s.withMu u).rcv = s.rcv := rfl

@[simp] theorem State.withMu_sel (u : MasterUnit) : (s.withMu u).sel = s.sel := rfl

@[simp] theorem State.withMu_handed (u : MasterUnit) : (s.withMu u).handed = s.handed := rfl

@[simp] theorem State.withMu_served (u : MasterUnit) : (s.withMu u).served = s.served := rfl

@[simp] theorem State.withMu_agenda (u : MasterUnit) : (s.withMu u).agenda = s.agenda := rfl

@[simp] theorem State.withMu_tick (u : MasterUnit) : (s.withMu u).tick = s.tick := rfl

@[simp] theorem State.withMu_drawn (u : MasterUnit) : (s.withMu u).drawn = s.drawn := rfl

/-! `withSu` -/

@[simp] theorem State.withSu_cfg (k : Nat) (u : SlaveUnit) : (s.withSu k u).cfg = s.cfg := rfl

@[simp] theorem State.withSu_now (k : Nat) (u : SlaveUnit) : (s.withSu k u).now = s.now := rfl

@[simp] theorem State.withSu_bus (k : Nat) (u : SlaveUnit) : (s.withSu k u).bus = s.bus := rfl

@[simp] theorem State.withSu_txn (k : Nat) (u : SlaveUnit) : (s.withSu k u).txn = s.txn := rfl

@[simp] theorem State.withSu_intr (k : Nat) (u : SlaveUnit) : (s.withSu k u).intr = s.intr := rfl

@[simp] theorem State.withSu_mu (k : Nat) (u : SlaveUnit) : (s.withSu k u).mu = s.mu := rfl

@[simp] theorem State.withSu_su (k : Nat) (u : SlaveUnit) : (s.withSu k u).su = s.su.set k u := rfl

@[simp] theorem State.withSu_snd (k : Nat) (u : SlaveUnit) : (s.withSu k u).snd = s.snd := rfl

@[simp] theorem State.withSu_rcv (k : Nat) (u : SlaveUnit) : (s.withSu k u).rcv = s.rcv := rfl

@[simp] theorem State.withSu_sel (k : Nat) (u : SlaveUnit) : (s.withSu k u).sel = s.sel := rfl

@[simp] theorem State.withSu_handed (k : Nat) (u : SlaveUnit) : (s.withSu k u).handed = s.handed := rfl

@[simp] theorem State.withSu_served (k : Nat) (u : SlaveUnit) : (s.withSu k u).served = s.served := rfl

@[simp] theorem State.withSu_agenda (k : Nat) (u : SlaveUnit) : (s.withSu k u).agenda = s.agenda := rfl

@[simp] theorem State.withSu_tick (k : Nat) (u : SlaveUnit) : (s.withSu k u).tick = s.tick := rfl

@[simp] theorem State.withSu_drawn (k : Nat) (u : SlaveUnit) : (s.withSu k u).drawn = s.drawn := rfl

/-! `withSnd` -/

@[simp] theorem State.withSnd_cfg (u : SenderUnit) : (s.withSnd u).cfg = s.cfg := rfl

@[simp] theorem State.withSnd_now (u : SenderUnit) : (s.withSnd u).now = s.now := rfl

@[simp] theorem State.withSnd_bus (u : SenderUnit) : (s.withSnd u).bus = s.bus := rfl

@[simp] theorem State.withSnd_txn (u : SenderUnit) : (s.withSnd u).txn = s.txn := rfl

@[simp] theorem State.withSnd_intr (u : SenderUnit) : (s.withSnd u).intr = s.intr := rfl

@[simp] theorem State.withSnd_mu (u : SenderUnit) : (s.withSnd u).mu = s.mu := rfl

@[simp] theorem State.withSnd_su (u : SenderUnit) : (s.withSnd u).su = s.su := rfl

@[simp] theorem State.withSnd_snd (u : SenderUnit) : (s.withSnd u).snd = u := rfl

@[simp] theorem State.withSnd_rcv (u : SenderUnit) : (s.withSnd u).rcv = s.rcv := rfl

@[simp] theorem State.withSnd_sel (u : SenderUnit) : (s.withSnd u).sel = s.sel := rfl

@[simp] theorem State.withSnd_handed (u : SenderUnit) : (s.withSnd u).handed = s.handed := rfl

@[simp] theorem State.withSnd_served (u : SenderUnit) : (s.withSnd u).served = s.served := rfl

@[simp] theorem State.withSnd_agenda (u : SenderUnit) : (s.withSnd u).agenda = s.agenda := rfl

@[simp] theorem State.withSnd_tick (u : SenderUnit) : (s.withSnd u).tick = s.tick := rfl

@[simp] theorem State.withSnd_drawn (u : SenderUnit) : (s.withSnd u).drawn = s.drawn := rfl

/-! `withRcv` -/

@[simp] theorem State.withRcv_cfg (j : Nat) (u : ReceiverUnit) : (s.withRcv j u).cfg = s.cfg := rfl

@[simp] theorem State.withRcv_now (j : Nat) (u : ReceiverUnit) : (s.withRcv j u).now = s.now := rfl

@[simp] theorem State.withRcv_bus (j : Nat) (u : ReceiverUnit) : (s.withRcv j u).bus = s.bus := rfl

@[simp] theorem State.withRcv_txn (j : Nat) (u : ReceiverUnit) : (s.withRcv j u).txn = s.txn := rfl

@[simp] theorem State.withRcv_intr (j : Nat) (u : ReceiverUnit) : (s.withRcv j u).intr = s.intr := rfl

@[simp] theorem State.withRcv_mu (j : Nat) (u : ReceiverUnit) : (s.withRcv j u).mu = s.mu := rfl

@[simp] theorem State.withRcv_su (j : Nat) (u : ReceiverUnit) : (s.withRcv j u).su = s.su := rfl

@[simp] theorem State.withRcv_snd (j : Nat) (u : ReceiverUnit) : (s.withRcv j u).snd = s.snd := rfl

@[simp] theorem State.withRcv_rcv (j : Nat) (u : ReceiverUnit) : (s.withRcv j u).rcv = s.rcv.set j u := rfl

@[simp] theorem State.withRcv_sel (j : Nat) (u : ReceiverUnit) : (s.withRcv j u).sel = s.sel := rfl

@[simp] theorem State.withRcv_handed (j : Nat) (u : ReceiverUnit) : (s.withRcv j u).handed = s.handed := rfl

@[simp] theorem State.withRcv_served (j : Nat) (u : ReceiverUnit) : (s.withRcv j u).served = s.served := rfl

@[simp] theorem State.withRcv_agenda (j : Nat) (u : ReceiverUnit) : (s.withRcv j u).agenda = s.agenda := rfl

@[simp] theorem State.withRcv_tick (j : Nat) (u : ReceiverUnit) : (s.withRcv j u).tick = s.tick := rfl

@[simp] theorem State.withRcv_drawn (j : Nat) (u : ReceiverUnit) : (s.withRcv j u).drawn = s.drawn := rfl

/-! `markServed` -/

@[simp] theorem State.markServed_cfg (v : Bool) : (s.markServed v).cfg = s.cfg := rfl

@[simp] theorem State.markServed_now (v : Bool) : (s.markServed v).now = s.now := rfl

@[simp] theorem State.markServed_bus (v : Bool) : (s.markServed v).bus = s.bus := rfl

@[simp] theorem State.markServed_txn (v : Bool) : (s.markServed v).txn = s.txn := rfl

@[simp] theorem State.markServed_intr (v : Bool) : (s.markServed v).intr = s.intr := rfl

@[simp] theorem State.markServed_mu (v : Bool) : (s.markServed v).mu = s.mu := rfl

@[simp] theorem State.markServed_su (v : Bool) : (s.markServed v).su = s.su := rfl

@[simp] theorem State.markServed_snd (v : Bool) : (s.markServed v).snd = s.snd := rfl

@[simp] theorem State.markServed_rcv (v : Bool) : (s.markServed v).rcv = s.rcv := rfl

@[simp] theorem State.markServed_sel (v : Bool) : (s.markServed v).sel = s.sel := rfl

@[simp] theorem State.markServed_handed (v : Bool) : (s.markServed v).handed = s.handed := rfl

@[simp] theorem State.markServed_served (v : Bool) : (s.markServed v).served = v := rfl

@[simp] theorem State.markServed_agenda (v : Bool) : (s.markServed v).agenda = s.agenda := rfl

@[simp] theorem State.markServed_tick (v : Bool) : (s.markServed v).tick = s.tick := rfl

@[simp] theorem State.markServed_drawn (v : Bool) : (s.markServed v).drawn = s.drawn := rfl

/-! `driveReady` -/

@[simp] theorem State.driveReady_cfg (v : Bool) : (s.driveReady v).cfg = s.cfg := rfl

@[simp] theorem State.driveReady_now (v : Bool) : (s.driveReady v).now = s.now := rfl

@[simp] theorem State.driveReady_bus (v : Bool) : (s.driveReady v).bus = { s.bus with ready := v } := rfl

@[simp] theorem State.driveReady_txn (v : Bool) : (s.driveReady v).txn = s.txn := rfl

@[simp] theorem State.driveReady_intr (v : Bool) : (s.driveReady v).intr = s.intr := rfl

@[simp] theorem State.driveReady_mu (v : Bool) : (s.driveReady v).mu = s.mu := rfl

@[simp] theorem State.driveReady_su (v : Bool) : (s.driveReady v).su = s.su := rfl

@[simp] theorem State.driveReady_snd (v : Bool) : (s.driveReady v).snd = s.snd := rfl

@[simp] theorem State.driveReady_rcv (v : Bool) : (s.driveReady v).rcv = s.rcv := rfl

@[simp] theorem State.driveReady_sel (v : Bool) : (s.driveReady v).sel = s.sel := rfl

@[simp] theorem State.driveReady_handed (v : Bool) : (s.driveReady v).handed = s.handed := rfl

@[simp] theorem State.driveReady_served (v : Bool) : (s.driveReady v).served = s.served := rfl

@[simp] theorem State.driveReady_agenda (v : Bool) : (s.driveReady v).agenda = s.agenda := rfl

@[simp] theorem State.driveReady_tick (v : Bool) : (s.driveReady v).tick = s.tick := rfl

@[simp] theorem State.driveReady_drawn (v : Bool) : (s.driveReady v).drawn = s.drawn := rfl

/-! `driveAck` -/

@[simp] theorem State.driveAck_cfg (v : Bool) : (s.driveAck v).cfg = s.cfg := rfl

@[simp] theorem State.driveAck_now (v : Bool) : (s.driveAck v).now = s.now := rfl

@[simp] theorem State.driveAck_bus (v : Bool) : (s.driveAck v).bus = { s.bus with ack := v } := rfl

@[simp] theorem State.driveAck_txn (v : Bool) : (s.driveAck v).txn = s.txn := rfl

@[simp] theorem State.driveAck_intr (v : Bool) : (s.driveAck v).intr = s.intr := rfl

@[simp] theorem State.driveAck_mu (v : Bool) : (s.driveAck v).mu = s.mu := rfl

@[simp] theorem State.driveAck_su (v : Bool) : (s.driveAck v).su = s.su := rfl

@[simp] theorem State.driveAck_snd (v : Bool) : (s.driveAck v).snd = s.snd := rfl

@[simp] theorem State.driveAck_rcv (v : Bool) : (s.driveAck v).rcv = s.rcv := rfl

@[simp] theorem State.driveAck_sel (v : Bool) : (s.driveAck v).sel = s.sel := rfl

@[simp] theorem State.driveAck_handed (v : Bool) : (s.driveAck v).handed = s.handed := rfl

@[simp] theorem State.driveAck_served (v : Bool) : (s.driveAck v).served = s.served := rfl

@[simp] theorem State.driveAck_agenda (v : Bool) : (s.driveAck v).agenda = s.agenda := rfl

@[simp] theorem State.driveAck_tick (v : Bool) : (s.driveAck v).tick = s.tick := rfl

@[simp] theorem State.driveAck_drawn (v : Bool) : (s.driveAck v).drawn = s.drawn := rfl

/-! `driveAddress` -/

@[simp] theorem State.driveAddress_cfg (a : Addr) : (s.driveAddress a).cfg = s.cfg := rfl

@[simp] theorem State.driveAddress_now (a : Addr) : (s.driveAddress a).now = s.now := rfl

@[simp] theorem State.driveAddress_bus (a : Addr) : (s.driveAddress a).bus = { s.bus with address := some a } := rfl

@[simp] theorem State.driveAddress_txn (a : Addr) : (s.driveAddress a).txn = s.txn := rfl

@[simp] theorem State.driveAddress_intr (a : Addr) : (s.driveAddress a).intr = s.intr := rfl

@[simp] theorem State.driveAddress_mu (a : Addr) : (s.driveAddress a).mu = s.mu := rfl

@[simp] theorem State.driveAddress_su (a : Addr) : (s.driveAddress a).su = s.su := rfl

@[simp] theorem State.driveAddress_snd (a : Addr) : (s.driveAddress a).snd = s.snd := rfl

@[simp] theorem State.driveAddress_rcv (a : Addr) : (s.driveAddress a).rcv = s.rcv := rfl

@[simp] theorem State.driveAddress_sel (a : Addr) : (s.driveAddress a).sel = s.sel := rfl

@[simp] theorem State.driveAddress_handed (a : Addr) : (s.driveAddress a).handed = s.handed := rfl

@[simp] theorem State.driveAddress_served (a : Addr) : (s.driveAddress a).served = s.served := rfl

@[simp] theorem State.driveAddress_agenda (a : Addr) : (s.driveAddress a).agenda = s.agenda := rfl

@[simp] theorem State.driveAddress_tick (a : Addr) : (s.driveAddress a).tick = s.tick := rfl

@[simp] theorem State.driveAddress_drawn (a : Addr) : (s.driveAddress a).drawn = s.drawn := rfl

/-! `driveData` -/

@[simp] theorem State.driveData_cfg (d : Word) : (s.driveData d).cfg = s.cfg := rfl

@[simp] theorem State.driveData_now (d : Word) : (s.driveData d).now = s.now := rfl

@[simp] theorem State.driveData_bus (d : Word) : (s.driveData d).bus = { s.bus with data := some d } := rfl

@[simp] theorem State.driveData_txn (d : Word) : (s.driveData d).txn = s.txn := rfl

@[simp] theorem State.driveData_intr (d : Word) : (s.driveData d).intr = s.intr := rfl

@[simp] theorem State.driveData_mu (d : Word) : (s.driveData d).mu = s.mu := rfl

@[simp] theorem State.driveData_su (d : Word) : (s.driveData d).su = s.su := rfl

@[simp] theorem State.driveData_snd (d : Word) : (s.driveData d).snd = s.snd := rfl

@[simp] theorem State.driveData_rcv (d : Word) : (s.driveData d).rcv = s.rcv := rfl

@[simp] theorem State.driveData_sel (d : Word) : (s.driveData d).sel = s.sel := rfl

@[simp] theorem State.driveData_handed (d : Word) : (s.driveData d).handed = s.handed := rfl

@[simp] theorem State.driveData_served (d : Word) : (s.driveData d).served = s.served := rfl

@[simp] theorem State.driveData_agenda (d : Word) : (s.driveData d).agenda = s.agenda := rfl

@[simp] theorem State.driveData_tick (d : Word) : (s.driveData d).tick = s.tick := rfl

@[simp] theorem State.driveData_drawn (d : Word) : (s.driveData d).drawn = s.drawn := rfl

/-! `drivePendingAddress` -/

@[simp] theorem State.drivePendingAddress_cfg (a : Addr) : (s.drivePendingAddress a).cfg = s.cfg := rfl

@[simp] theorem State.drivePendingAddress_now (a : Addr) : (s.drivePendingAddress a).now = s.now := rfl

@[simp] theorem State.drivePendingAddress_bus (a : Addr) : (s.drivePendingAddress a).bus = s.bus := rfl

@[simp] theorem State.drivePendingAddress_txn (a : Addr) : (s.drivePendingAddress a).txn = { s.txn with pendingAddress := some a } := rfl

@[simp] theorem State.drivePendingAddress_intr (a : Addr) : (s.drivePendingAddress a).intr = s.intr := rfl

@[simp] theorem State.drivePendingAddress_mu (a : Addr) : (s.drivePendingAddress a).mu = s.mu := rfl

@[simp] theorem State.drivePendingAddress_su (a : Addr) : (s.drivePendingAddress a).su = s.su := rfl

@[simp] theorem State.drivePendingAddress_snd (a : Addr) : (s.drivePendingAddress a).snd = s.snd := rfl

@[simp] theorem State.drivePendingAddress_rcv (a : Addr) : (s.drivePendingAddress a).rcv = s.rcv := rfl

@[simp] theorem State.drivePendingAddress_sel (a : Addr) : (s.drivePendingAddress a).sel = s.sel := rfl

@[simp] theorem State.drivePendingAddress_handed (a : Addr) : (s.drivePendingAddress a).handed = s.handed := rfl

@[simp] theorem State.drivePendingAddress_served (a : Addr) : (s.drivePendingAddress a).served = s.served := rfl

@[simp] theorem State.drivePendingAddress_agenda (a : Addr) : (s.drivePendingAddress a).agenda = s.agenda := rfl

@[simp] theorem State.drivePendingAddress_tick (a : Addr) : (s.drivePendingAddress a).tick = s.tick := rfl

@[simp] theorem State.drivePendingAddress_drawn (a : Addr) : (s.drivePendingAddress a).drawn = s.drawn := rfl

/-! `drivePendingData` -/

@[simp] theorem State.drivePendingData_cfg (d : Word) : (s.drivePendingData d).cfg = s.cfg := rfl

@[simp] theorem State.drivePendingData_now (d : Word) : (s.drivePendingData d).now = s.now := rfl

@[simp] theorem State.drivePendingData_bus (d : Word) : (s.drivePendingData d).bus = s.bus := rfl

@[simp] theorem State.drivePendingData_txn (d : Word) : (s.drivePendingData d).txn = { s.txn with pendingData := some d } := rfl

@[simp] theorem State.drivePendingData_intr (d : Word) : (s.drivePendingData d).intr = s.intr := rfl

@[simp] theorem State.drivePendingData_mu (d : Word) : (s.drivePendingData d).mu = s.mu := rfl

@[simp] theorem State.drivePendingData_su (d : Word) : (s.drivePendingData d).su = s.su := rfl

@[simp] theorem State.drivePendingData_snd (d : Word) : (s.drivePendingData d).snd = s.snd := rfl

@[simp] theorem State.drivePendingData_rcv (d : Word) : (s.drivePendingData d).rcv = s.rcv := rfl

@[simp] theorem State.drivePendingData_sel (d : Word) : (s.drivePendingData d).sel = s.sel := rfl

@[simp] theorem State.drivePendingData_handed (d : Word) : (s.drivePendingData d).handed = s.handed := rfl

@[simp] theorem State.drivePendingData_served (d : Word) : (s.drivePendingData d).served = s.served := rfl

@[simp] theorem State.drivePendingData_agenda (d : Word) : (s.drivePendingData d).agenda = s.agenda := rfl

@[simp] theorem State.drivePendingData_tick (d : Word) : (s.drivePendingData d).tick = s.tick := rfl

@[simp] theorem State.drivePendingData_drawn (d : Word) : (s.drivePendingData d).drawn = s.drawn := rfl

/-! `wake` -/

@[simp] theorem State.wake_cfg (w : Susp) : (s.wake w).cfg = s.cfg := rfl

@[simp] theorem State.wake_now (w : Susp) : (s.wake w).now = s.now := rfl

@[simp] theorem State.wake_bus (w : Susp) : (s.wake w).bus = s.bus := rfl

@[simp] theorem State.wake_txn (w : Susp) : (s.wake w).txn = s.txn := rfl

@[simp] theorem State.wake_intr (w : Susp) : (s.wake w).intr = s.intr := rfl

@[simp] theorem State.wake_mu (w : Susp) : (s.wake w).mu = { s.mu with susp := Susp.clear w s.mu.susp } := rfl

@[simp] theorem State.wake_su (w : Susp) : (s.wake w).su = s.su.map (fun u => { u with susp := Susp.clear w u.susp }) := rfl

@[simp] theorem State.wake_snd (w : Susp) : (s.wake w).snd = { s.snd with susp := Susp.clear w s.snd.susp } := rfl

@[simp] theorem State.wake_rcv (w : Susp) : (s.wake w).rcv = s.rcv.map (fun u => { u with susp := Susp.clear w u.susp }) := rfl

@[simp] theorem State.wake_sel (w : Susp) : (s.wake w).sel = s.sel := rfl

@[simp] theorem State.wake_handed (w : Susp) : (s.wake w).handed = s.handed := rfl

@[simp] theorem State.wake_served (w : Susp) : (s.wake w).served = s.served := rfl

@[simp] theorem State.wake_agenda (w : Susp) : (s.wake w).agenda = s.agenda := rfl

@[simp] theorem State.wake_tick (w : Susp) : (s.wake w).tick = s.tick := rfl

@[simp] theorem State.wake_drawn (w : Susp) : (s.wake w).drawn = s.drawn := rfl

/-! `muWaitfor` -/

@[simp] theorem State.muWaitfor_cfg (p : MasterPhase) (n : Nat) : (s.muWaitfor p n).cfg = s.cfg := rfl

@[simp] theorem State.muWaitfor_now (p : MasterPhase) (n : Nat) : (s.muWaitfor p n).now = s.now := rfl

@[simp] theorem State.muWaitfor_bus (p : MasterPhase) (n : Nat) : (s.muWaitfor p n).bus = s.bus := rfl

@[simp] theorem State.muWaitfor_txn (p : MasterPhase) (n : Nat) : (s.muWaitfor p n).txn = s.txn := rfl

@[simp] theorem State.muWaitfor_intr (p : MasterPhase) (n : Nat) : (s.muWaitfor p n).intr = s.intr := rfl

@[simp] theorem State.muWaitfor_mu (p : MasterPhase) (n : Nat) : (s.muWaitfor p n).mu = { s.mu with phase := p, susp := .until (s.now + n) } := rfl

@[simp] theorem State.muWaitfor_su (p : MasterPhase) (n : Nat) : (s.muWaitfor p n).su = s.su := rfl

@[simp] theorem State.muWaitfor_snd (p : MasterPhase) (n : Nat) : (s.muWaitfor p n).snd = s.snd := rfl

@[simp] theorem State.muWaitfor_rcv (p : MasterPhase) (n : Nat) : (s.muWaitfor p n).rcv = s.rcv := rfl

@[simp] theorem State.muWaitfor_sel (p : MasterPhase) (n : Nat) : (s.muWaitfor p n).sel = s.sel := rfl

@[simp] theorem State.muWaitfor_handed (p : MasterPhase) (n : Nat) : (s.muWaitfor p n).handed = s.handed := rfl

@[simp] theorem State.muWaitfor_served (p : MasterPhase) (n : Nat) : (s.muWaitfor p n).served = s.served := rfl

@[simp] theorem State.muWaitfor_agenda (p : MasterPhase) (n : Nat) : (s.muWaitfor p n).agenda = s.agenda := rfl

@[simp] theorem State.muWaitfor_tick (p : MasterPhase) (n : Nat) : (s.muWaitfor p n).tick = s.tick := rfl

@[simp] theorem State.muWaitfor_drawn (p : MasterPhase) (n : Nat) : (s.muWaitfor p n).drawn = s.drawn := rfl

/-! `muWaitNotice` -/

@[simp] theorem State.muWaitNotice_cfg (p : MasterPhase) (e : Notice) : (s.muWaitNotice p e).cfg = s.cfg := rfl

@[simp] theorem State.muWaitNotice_now (p : MasterPhase) (e : Notice) : (s.muWaitNotice p e).now = s.now := rfl

@[simp] theorem State.muWaitNotice_bus (p : MasterPhase) (e : Notice) : (s.muWaitNotice p e).bus = s.bus := rfl

@[simp] theorem State.muWaitNotice_txn (p : MasterPhase) (e : Notice) : (s.muWaitNotice p e).txn = s.txn := rfl

@[simp] theorem State.muWaitNotice_intr (p : MasterPhase) (e : Notice) : (s.muWaitNotice p e).intr = s.intr := rfl

@[simp] theorem State.muWaitNotice_mu (p : MasterPhase) (e : Notice) : (s.muWaitNotice p e).mu = { s.mu with phase := p, susp := .notice e } := rfl

@[simp] theorem State.muWaitNotice_su (p : MasterPhase) (e : Notice) : (s.muWaitNotice p e).su = s.su := rfl

@[simp] theorem State.muWaitNotice_snd (p : MasterPhase) (e : Notice) : (s.muWaitNotice p e).snd = s.snd := rfl

@[simp] theorem State.muWaitNotice_rcv (p : MasterPhase) (e : Notice) : (s.muWaitNotice p e).rcv = s.rcv := rfl

@[simp] theorem State.muWaitNotice_sel (p : MasterPhase) (e : Notice) : (s.muWaitNotice p e).sel = s.sel := rfl

@[simp] theorem State.muWaitNotice_handed (p : MasterPhase) (e : Notice) : (s.muWaitNotice p e).handed = s.handed := rfl

@[simp] theorem State.muWaitNotice_served (p : MasterPhase) (e : Notice) : (s.muWaitNotice p e).served = s.served := rfl

@[simp] theorem State.muWaitNotice_agenda (p : MasterPhase) (e : Notice) : (s.muWaitNotice p e).agenda = s.agenda := rfl

@[simp] theorem State.muWaitNotice_tick (p : MasterPhase) (e : Notice) : (s.muWaitNotice p e).tick = s.tick := rfl

@[simp] theorem State.muWaitNotice_drawn (p : MasterPhase) (e : Notice) : (s.muWaitNotice p e).drawn = s.drawn := rfl

/-! `suWaitfor` -/

@[simp] theorem State.suWaitfor_cfg (k : Nat) (u : SlaveUnit) (p : SlavePoint) (n : Nat) : (s.suWaitfor k u p n).cfg = s.cfg := rfl

@[simp] theorem State.suWaitfor_now (k : Nat) (u : SlaveUnit) (p : SlavePoint) (n : Nat) : (s.suWaitfor k u p n).now = s.now := rfl

@[simp] theorem State.suWaitfor_bus (k : Nat) (u : SlaveUnit) (p : SlavePoint) (n : Nat) : (s.suWaitfor k u p n).bus = s.bus := rfl

@[simp] theorem State.suWaitfor_txn (k : Nat) (u : SlaveUnit) (p : SlavePoint) (n : Nat) : (s.suWaitfor k u p n).txn = s.txn := rfl

@[simp] theorem State.suWaitfor_intr (k : Nat) (u : SlaveUnit) (p : SlavePoint) (n : Nat) : (s.suWaitfor k u p n).intr = s.intr := rfl

@[simp] theorem State.suWaitfor_mu (k : Nat) (u : SlaveUnit) (p : SlavePoint) (n : Nat) : (s.suWaitfor k u p n).mu = s.mu := rfl

@[simp] theorem State.suWaitfor_su (k : Nat) (u : SlaveUnit) (p : SlavePoint) (n : Nat) : (s.suWaitfor k u p n).su = s.su.set k { u with phase := .word p, susp := .until (s.now + n) } := rfl

@[simp] theorem State.suWaitfor_snd (k : Nat) (u : SlaveUnit) (p : SlavePoint) (n : Nat) : (s.suWaitfor k u p n).snd = s.snd := rfl

@[simp] theorem State.suWaitfor_rcv (k : Nat) (u : SlaveUnit) (p : SlavePoint) (n : Nat) : (s.suWaitfor k u p n).rcv = s.rcv := rfl

@[simp] theorem State.suWaitfor_sel (k : Nat) (u : SlaveUnit) (p : SlavePoint) (n : Nat) : (s.suWaitfor k u p n).sel = s.sel := rfl

@[simp] theorem State.suWaitfor_handed (k : Nat) (u : SlaveUnit) (p : SlavePoint) (n : Nat) : (s.suWaitfor k u p n).handed = s.handed := rfl

@[simp] theorem State.suWaitfor_served (k : Nat) (u : SlaveUnit) (p : SlavePoint) (n : Nat) : (s.suWaitfor k u p n).served = s.served := rfl

@[simp] theorem State.suWaitfor_agenda (k : Nat) (u : SlaveUnit) (p : SlavePoint) (n : Nat) : (s.suWaitfor k u p n).agenda = s.agenda := rfl

@[simp] theorem State.suWaitfor_tick (k : Nat) (u : SlaveUnit) (p : SlavePoint) (n : Nat) : (s.suWaitfor k u p n).tick = s.tick := rfl

@[simp] theorem State.suWaitfor_drawn (k : Nat) (u : SlaveUnit) (p : SlavePoint) (n : Nat) : (s.suWaitfor k u p n).drawn = s.drawn := rfl

/-! `suSuspend` -/

@[simp] theorem State.suSuspend_cfg (k : Nat) (u : SlaveUnit) (p : SlavePoint) (w : Susp) : (s.suSuspend k u p w).cfg = s.cfg := rfl

@[simp] theorem State.suSuspend_now (k : Nat) (u : SlaveUnit) (p : SlavePoint) (w : Susp) : (s.suSuspend k u p w).now = s.now := rfl

@[simp] theorem State.suSuspend_bus (k : Nat) (u : SlaveUnit) (p : SlavePoint) (w : Susp) : (s.suSuspend k u p w).bus = s.bus := rfl

@[simp] theorem State.suSuspend_txn (k : Nat) (u : SlaveUnit) (p : SlavePoint) (w : Susp) : (s.suSuspend k u p w).txn = s.txn := rfl

@[simp] theorem State.suSuspend_intr (k : Nat) (u : SlaveUnit) (p : SlavePoint) (w : Susp) : (s.suSuspend k u p w).intr = s.intr := rfl

@[simp] theorem State.suSuspend_mu (k : Nat) (u : SlaveUnit) (p : SlavePoint) (w : Susp) : (s.suSuspend k u p w).mu = s.mu := rfl

@[simp] theorem State.suSuspend_su (k : Nat) (u : SlaveUnit) (p : SlavePoint) (w : Susp) : (s.suSuspend k u p w).su = s.su.set k { u with phase := .word p, susp := w } := rfl

@[simp] theorem State.suSuspend_snd (k : Nat) (u : SlaveUnit) (p : SlavePoint) (w : Susp) : (s.suSuspend k u p w).snd = s.snd := rfl

@[simp] theorem State.suSuspend_rcv (k : Nat) (u : SlaveUnit) (p : SlavePoint) (w : Susp) : (s.suSuspend k u p w).rcv = s.rcv := rfl

@[simp] theorem State.suSuspend_sel (k : Nat) (u : SlaveUnit) (p : SlavePoint) (w : Susp) : (s.suSuspend k u p w).sel = s.sel := rfl

@[simp] theorem State.suSuspend_handed (k : Nat) (u : SlaveUnit) (p : SlavePoint) (w : Susp) : (s.suSuspend k u p w).handed = s.handed := rfl

@[simp] theorem State.suSuspend_served (k : Nat) (u : SlaveUnit) (p : SlavePoint) (w : Susp) : (s.suSuspend k u p w).served = s.served := rfl

@[simp] theorem State.suSuspend_agenda (k : Nat) (u : SlaveUnit) (p : SlavePoint) (w : Susp) : (s.suSuspend k u p w).agenda = s.agenda := rfl

@[simp] theorem State.suSuspend_tick (k : Nat) (u : SlaveUnit) (p : SlavePoint) (w : Susp) : (s.suSuspend k u p w).tick = s.tick := rfl

@[simp] theorem State.suSuspend_drawn (k : Nat) (u : SlaveUnit) (p : SlavePoint) (w : Susp) : (s.suSuspend k u p w).drawn = s.drawn := rfl

/-! `select` -/

@[simp] theorem State.select_cfg (u : UnitId) : (s.select u).cfg = s.cfg := rfl

@[simp] theorem State.select_now (u : UnitId) : (s.select u).now = s.now := rfl

@[simp] theorem State.select_bus (u : UnitId) : (s.select u).bus = s.bus := rfl

@[simp] theorem State.select_txn (u : UnitId) : (s.select u).txn = s.txn := rfl

@[simp] theorem State.select_intr (u : UnitId) : (s.select u).intr = s.intr := rfl

@[simp] theorem State.select_mu (u : UnitId) : (s.select u).mu = s.mu := rfl

@[simp] theorem State.select_su (u : UnitId) : (s.select u).su = s.su := rfl

@[simp] theorem State.select_snd (u : UnitId) : (s.select u).snd = s.snd := rfl

@[simp] theorem State.select_rcv (u : UnitId) : (s.select u).rcv = s.rcv := rfl

@[simp] theorem State.select_sel (u : UnitId) : (s.select u).sel = u := rfl

@[simp] theorem State.select_handed (u : UnitId) : (s.select u).handed = s.handed := rfl

@[simp] theorem State.select_served (u : UnitId) : (s.select u).served = s.served := rfl

@[simp] theorem State.select_agenda (u : UnitId) : (s.select u).agenda = s.agenda := rfl

@[simp] theorem State.select_tick (u : UnitId) : (s.select u).tick = s.tick := rfl

@[simp] theorem State.select_drawn (u : UnitId) : (s.select u).drawn = s.drawn := rfl

/-! `drawLength` -/

@[simp] theorem State.drawLength_cfg (n : Len) : (s.drawLength n).cfg = s.cfg := rfl

@[simp] theorem State.drawLength_now (n : Len) : (s.drawLength n).now = s.now := rfl

@[simp] theorem State.drawLength_bus (n : Len) : (s.drawLength n).bus = s.bus := rfl

@[simp] theorem State.drawLength_txn (n : Len) : (s.drawLength n).txn = s.txn := rfl

@[simp] theorem State.drawLength_intr (n : Len) : (s.drawLength n).intr = s.intr := rfl

@[simp] theorem State.drawLength_mu (n : Len) : (s.drawLength n).mu = s.mu := rfl

@[simp] theorem State.drawLength_su (n : Len) : (s.drawLength n).su = s.su := rfl

@[simp] theorem State.drawLength_snd (n : Len) : (s.drawLength n).snd = s.snd := rfl

@[simp] theorem State.drawLength_rcv (n : Len) : (s.drawLength n).rcv = s.rcv := rfl

@[simp] theorem State.drawLength_sel (n : Len) : (s.drawLength n).sel = s.sel := rfl

@[simp] theorem State.drawLength_handed (n : Len) : (s.drawLength n).handed = s.handed := rfl

@[simp] theorem State.drawLength_served (n : Len) : (s.drawLength n).served = s.served := rfl

@[simp] theorem State.drawLength_agenda (n : Len) : (s.drawLength n).agenda = s.agenda := rfl

@[simp] theorem State.drawLength_tick (n : Len) : (s.drawLength n).tick = s.tick := rfl

@[simp] theorem State.drawLength_drawn (n : Len) : (s.drawLength n).drawn = if s.cfg.lengthFits n then s.drawn else s.drawn + 1 := rfl

/-! `advance` -/

@[simp] theorem State.advance_cfg (t : Nat) : (s.advance t).cfg = s.cfg := rfl

@[simp] theorem State.advance_now (t : Nat) : (s.advance t).now = t := rfl

@[simp] theorem State.advance_bus (t : Nat) : (s.advance t).bus = s.bus := rfl

@[simp] theorem State.advance_txn (t : Nat) : (s.advance t).txn = s.txn := rfl

@[simp] theorem State.advance_intr (t : Nat) : (s.advance t).intr = s.intr := rfl

@[simp] theorem State.advance_mu (t : Nat) : (s.advance t).mu = s.mu := rfl

@[simp] theorem State.advance_su (t : Nat) : (s.advance t).su = s.su := rfl

@[simp] theorem State.advance_snd (t : Nat) : (s.advance t).snd = s.snd := rfl

@[simp] theorem State.advance_rcv (t : Nat) : (s.advance t).rcv = s.rcv.map (ReceiverUnit.sample s.cfg s.intr s.now t) := rfl

@[simp] theorem State.advance_sel (t : Nat) : (s.advance t).sel = s.sel := rfl

@[simp] theorem State.advance_handed (t : Nat) : (s.advance t).handed = s.handed := rfl

@[simp] theorem State.advance_served (t : Nat) : (s.advance t).served = s.served := rfl

@[simp] theorem State.advance_agenda (t : Nat) : (s.advance t).agenda = s.agenda := rfl

@[simp] theorem State.advance_tick (t : Nat) : (s.advance t).tick = s.tick := rfl

@[simp] theorem State.advance_drawn (t : Nat) : (s.advance t).drawn = s.drawn := rfl

/-! `notify`: a wake of the notice's waiters -/

@[simp] theorem State.notify_cfg (e : Notice) : (s.notify e).cfg = s.cfg := rfl

@[simp] theorem State.notify_now (e : Notice) : (s.notify e).now = s.now := rfl

@[simp] theorem State.notify_bus (e : Notice) : (s.notify e).bus = s.bus := rfl

@[simp] theorem State.notify_txn (e : Notice) : (s.notify e).txn = s.txn := rfl

@[simp] theorem State.notify_intr (e : Notice) : (s.notify e).intr = s.intr := rfl

@[simp] theorem State.notify_mu (e : Notice) : (s.notify e).mu = { s.mu with susp := Susp.clear (.notice e) s.mu.susp } := rfl

@[simp] theorem State.notify_su (e : Notice) : (s.notify e).su = s.su.map (fun u => { u with susp := Susp.clear (.notice e) u.susp }) := rfl

@[simp] theorem State.notify_snd (e : Notice) : (s.notify e).snd = { s.snd with susp := Susp.clear (.notice e) s.snd.susp } := rfl

@[simp] theorem State.notify_rcv (e : Notice) : (s.notify e).rcv = s.rcv.map (fun u => { u with susp := Susp.clear (.notice e) u.susp }) := rfl

@[simp] theorem State.notify_sel (e : Notice) : (s.notify e).sel = s.sel := rfl

@[simp] theorem State.notify_handed (e : Notice) : (s.notify e).handed = s.handed := rfl

@[simp] theorem State.notify_served (e : Notice) : (s.notify e).served = s.served := rfl

@[simp] theorem State.notify_agenda (e : Notice) : (s.notify e).agenda = s.agenda := rfl

@[simp] theorem State.notify_tick (e : Notice) : (s.notify e).tick = s.tick := rfl

@[simp] theorem State.notify_drawn (e : Notice) : (s.notify e).drawn = s.drawn := rfl

/-! `driveIntr` -/

@[simp] theorem State.driveIntr_cfg (v : Bool) : (s.driveIntr v).cfg = s.cfg := by
  unfold State.driveIntr; split <;> rfl

@[simp] theorem State.driveIntr_now (v : Bool) : (s.driveIntr v).now = s.now := by
  unfold State.driveIntr; split <;> rfl

@[simp] theorem State.driveIntr_bus (v : Bool) : (s.driveIntr v).bus = s.bus := by
  unfold State.driveIntr; split <;> rfl

@[simp] theorem State.driveIntr_txn (v : Bool) : (s.driveIntr v).txn = s.txn := by
  unfold State.driveIntr; split <;> rfl

@[simp] theorem State.driveIntr_sel (v : Bool) : (s.driveIntr v).sel = s.sel := by
  unfold State.driveIntr; split <;> rfl

@[simp] theorem State.driveIntr_handed (v : Bool) : (s.driveIntr v).handed = s.handed := by
  unfold State.driveIntr; split <;> rfl

@[simp] theorem State.driveIntr_served (v : Bool) : (s.driveIntr v).served = s.served := by
  unfold State.driveIntr; split <;> rfl

@[simp] theorem State.driveIntr_agenda (v : Bool) : (s.driveIntr v).agenda = s.agenda := by
  unfold State.driveIntr; split <;> rfl

@[simp] theorem State.driveIntr_tick (v : Bool) : (s.driveIntr v).tick = s.tick := by
  unfold State.driveIntr; split <;> rfl

@[simp] theorem State.driveIntr_drawn (v : Bool) : (s.driveIntr v).drawn = s.drawn := by
  unfold State.driveIntr; split <;> rfl

@[simp] theorem State.driveIntr_intr (v : Bool) : (s.driveIntr v).intr = v := by
  unfold State.driveIntr; split <;> simp_all

/-- A falling edge, or a write of the value held, wakes nobody (40_execution_model.md R83). -/
theorem State.driveIntr_quiet (v : Bool) (h : (v && !s.intr) = false) : s.driveIntr v = { s with intr := v } := by
  simp [State.driveIntr, h]

/-- A rising edge wakes every unit suspended on the edge (40_execution_model.md R83). -/
theorem State.driveIntr_rise (h : s.intr = false) : s.driveIntr true = State.wake .edge { s with intr := true } := by
  simp [State.driveIntr, h]

@[simp] theorem State.driveIntr_false : s.driveIntr false = { s with intr := false } := by
  simp [State.driveIntr]

@[simp] theorem Susp.clear_none (w : Susp) : Susp.clear w .none = .none := by
  unfold Susp.clear; split <;> rfl

/-- A wake leaves a suspension as it was or ends it. -/
theorem Susp.clear_cases (w x : Susp) : (x = w ∧ Susp.clear w x = .none) ∨ (x ≠ w ∧ Susp.clear w x = x) := by
  unfold Susp.clear; split <;> simp_all

end Sys2Proof.Machine
end

