-- ==== Sys2Proof/Laws/Memory.lean ====
section
/-! SUPPORT. The buffer operations keep the canonical form, and a write keeps a buffer's size (20_memory.md R40, R41). -/

namespace Sys2Proof.Machine

/-- Every index of a memory is above a bound. -/
def Memory.above (i : Nat) (m : Memory) : Prop := ∀ c ∈ m, i < c.1

theorem Memory.wf_cons_iff (i : Nat) (b : Byte) (m : Memory) :
    Memory.wf ((i, b) :: m) = true ↔ b ≠ Memory.blank ∧ Memory.above i m ∧ Memory.wf m = true := by
  induction m generalizing i b with
  | nil => simp [Memory.wf, Memory.above]
  | cons c m ih =>
    obtain ⟨j, c⟩ := c
    have hj := ih j c
    simp only [Memory.wf, Bool.and_eq_true, bne_iff_ne, decide_eq_true_eq]
    constructor
    · rintro ⟨⟨hb, hij⟩, hm⟩
      refine ⟨hb, ?_, hm⟩
      intro x hx
      rcases List.mem_cons.mp hx with rfl | hx
      · exact hij
      · exact hij.trans ((hj.mp hm).2.1 x hx)
    · rintro ⟨hb, ha, hm⟩
      exact ⟨⟨hb, ha _ (List.mem_cons_self ..)⟩, hm⟩

theorem Memory.cons_wf {i : Nat} {b : Byte} {m : Memory} (ha : Memory.above i m) (hm : Memory.wf m = true) :
    Memory.wf (Memory.cons i b m) = true := by
  unfold Memory.cons
  split
  · exact hm
  · exact (Memory.wf_cons_iff i b m).mpr ⟨‹_›, ha, hm⟩

theorem Memory.mem_cons {i : Nat} {b : Byte} {m : Memory} {c : Host.Cell} (h : c ∈ Memory.cons i b m) :
    c.1 = i ∨ c ∈ m := by
  unfold Memory.cons at h
  split at h
  · exact .inr h
  · rcases List.mem_cons.mp h with rfl | h
    · exact .inl rfl
    · exact .inr h

/-- A write lists no index but the one written and those listed before. -/
theorem Memory.mem_write {m : Memory} {i : Nat} {b : Byte} {c : Host.Cell} (h : c ∈ Memory.write m i b) :
    c.1 = i ∨ c ∈ m := by
  induction m with
  | nil => exact Memory.mem_cons h
  | cons e m ih =>
    obtain ⟨j, e⟩ := e
    unfold Memory.write at h
    split at h
    · exact Memory.mem_cons h
    split at h
    · exact (Memory.mem_cons h).imp_right (List.mem_cons_of_mem _)
    · rcases List.mem_cons.mp h with rfl | h
      · exact .inr (List.mem_cons_self ..)
      · exact (ih h).imp_right (List.mem_cons_of_mem _)

/-- A write keeps the canonical form. -/
theorem Memory.write_wf {m : Memory} (h : Memory.wf m = true) (i : Nat) (b : Byte) :
    Memory.wf (Memory.write m i b) = true := by
  induction m with
  | nil => exact Memory.cons_wf (by simp [Memory.above]) rfl
  | cons e m ih =>
    obtain ⟨j, e⟩ := e
    obtain ⟨he, ha, hm⟩ := (Memory.wf_cons_iff j e m).mp h
    unfold Memory.write
    split
    · refine Memory.cons_wf ?_ h
      intro c hc
      rcases List.mem_cons.mp hc with rfl | hc
      · assumption
      · exact lt_trans ‹i < j› (ha c hc)
    split
    · subst i; exact Memory.cons_wf ha hm
    · refine (Memory.wf_cons_iff j e _).mpr ⟨he, ?_, ih hm⟩
      intro c hc
      rcases Memory.mem_write hc with hc | hc
      · omega
      · exact ha c hc

@[simp] theorem Buffer.write_size (b : Buffer) (i : Nat) (v : Byte) : (b.write i v).size = b.size := by
  unfold Buffer.write; split <;> rfl

/-- A write keeps a buffer in canonical form. -/
theorem Buffer.write_wf {b : Buffer} (h : b.wf = true) (i : Nat) (v : Byte) : (b.write i v).wf = true := by
  unfold Buffer.write
  split
  case isFalse => exact h
  case isTrue hi =>
    simp only [Buffer.wf, Bool.and_eq_true, List.all_eq_true, decide_eq_true_eq] at h ⊢
    refine ⟨Memory.write_wf h.1 i v, ?_⟩
    intro c hc
    rcases Memory.mem_write hc with hc | hc
    · omega
    · exact h.2 c hc

theorem Memory.ofBytes_spec (i : Nat) (bs : List Byte) :
    Memory.wf (Memory.ofBytes i bs) = true ∧ ∀ c ∈ Memory.ofBytes i bs, i ≤ c.1 ∧ c.1 < i + bs.length := by
  induction bs generalizing i with
  | nil => simp [Memory.ofBytes, Memory.wf]
  | cons b bs ih =>
    obtain ⟨h1, h2⟩ := ih (i + 1)
    refine ⟨Memory.cons_wf (fun c hc => (h2 c hc).1) h1, ?_⟩
    intro c hc
    rcases Memory.mem_cons hc with hc | hc
    · simp [hc]
    · have := h2 c hc
      simp only [List.length_cons]; omega

/-- A buffer given by its bytes is in canonical form. -/
theorem Buffer.ofBytes_wf (bs : List Byte) : (Buffer.ofBytes bs).wf = true := by
  obtain ⟨h1, h2⟩ := Memory.ofBytes_spec 0 bs
  simp only [Buffer.wf, Buffer.ofBytes, Bool.and_eq_true, List.all_eq_true]
  exact ⟨h1, fun c hc => decide_eq_true (by have := (h2 c hc).2; omega)⟩

/-- A buffer of zeros is in canonical form. -/
@[simp] theorem Buffer.zeros_wf (n : Nat) : (Buffer.zeros n).wf = true := rfl

/-- The empty buffer is in canonical form. -/
@[simp] theorem Buffer.empty_wf : Buffer.empty.wf = true := rfl

end Sys2Proof.Machine
end

