-- ==== Sys2Proof/Laws/Ops.lean ====
section
/-! SUPPORT. Everything each shared operation can do: if it answers a next state, then one of the listed cases holds. -/

namespace Sys2Proof.Machine

variable {s t : State}

/-! ## The small operations -/

theorem readCell_next {α : Type} {c : CellName} {v : Option α} {rest : α → Answer} :
    readCell c v rest = .next t ↔ ∃ x, v = some x ∧ rest x = .next t := by
  cases v <;> simp [readCell]

theorem issue_next {i : Instr} {l : State} :
    issue i l s = .next t ↔ WellFormed s.cfg.dataWidth i = true ∧ l = t := by
  unfold issue; split <;> simp_all

theorem freeLength_fits : s.cfg.lengthFits s.freeLength = true := by
  simp only [Config.lengthFits, State.freeLength, decide_eq_true_eq, BitVec.toNat_ofNat]
  exact lt_of_le_of_lt (Nat.mod_le _ _) (Nat.mod_lt _ (Nat.two_pow_pos _))

/-- What `LEN` holds is a value of `LEN_WIDTH` bits. -/
theorem latchedLength_fits (n : Len) : s.cfg.lengthFits (s.latchedLength n) = true := by
  unfold State.latchedLength; split
  · assumption
  · exact freeLength_fits

/-- What `LEN` holds is no more than the command says. -/
theorem latchedLength_le (n : Len) : (s.latchedLength n).toNat ≤ n.toNat := by
  have hf := freeLength_fits (s := s)
  unfold State.latchedLength; split
  · exact le_rfl
  · rename_i h
    simp only [Config.lengthFits, decide_eq_true_eq] at h hf
    omega

theorem latchedLength_of_fits {n : Len} (h : s.cfg.lengthFits n = true) : s.latchedLength n = n := by
  simp [State.latchedLength, h]

theorem drawLength_of_fits {n : Len} (h : s.cfg.lengthFits n = true) : s.drawLength n = s := by
  simp [State.drawLength, h]

theorem issueLink_next {n : Len} {l : Len → State → State} :
    issueLink n l s = .next t ↔ n.toNat ≤ s.handed.size ∧ l (s.latchedLength n) (s.drawLength n) = t := by
  unfold issueLink; split <;> simp_all

theorem give_next {u : UnitId} {cs : List Command} (h : s.give u cs = .next t) :
    (s.portOf u).isSome = true ∧ t.portOf u = (s.portOf u).map (Port.add cs) := by
  cases u with
  | mu => cases h; exact ⟨rfl, rfl⟩
  | is => cases h; exact ⟨rfl, rfl⟩
  | su k =>
    cases hv : s.su[k]? <;> simp only [State.give, hv] at h <;> cases h
    obtain ⟨hk, rfl⟩ := List.getElem?_eq_some_iff.mp hv
    simp [State.portOf, State.withSu, hk]
  | ir j =>
    cases hv : s.rcv[j]? <;> simp only [State.give, hv] at h <;> cases h
    obtain ⟨hj, rfl⟩ := List.getElem?_eq_some_iff.mp hv
    simp [State.portOf, State.withRcv, hj]

theorem give_refused {u : UnitId} {cs : List Command} : s.give u cs = .refused .noSuchUnit ↔ s.portOf u = none := by
  cases u with
  | mu => simp [State.give, State.portOf]
  | is => simp [State.give, State.portOf]
  | su k => cases hv : s.su[k]? <;> simp only [State.give, State.portOf, hv] <;> simp
  | ir j => cases hv : s.rcv[j]? <;> simp only [State.give, State.portOf, hv] <;> simp

theorem runMaster_next {seg : State → Answer} :
    runMaster seg s = .next t ↔
      s.enabled .mu = true ∧ seg (s.withMu { s.mu with susp := .none }) = .next t := by
  unfold runMaster; split <;> simp_all

theorem runSlave_next {k : Nat} {u : SlaveUnit} {seg : SlaveUnit → State → Answer} :
    runSlave k u seg s = .next t ↔
      s.enabled (.su k) = true ∧ seg { u with susp := .none } (s.withSu k { u with susp := .none }) = .next t := by
  unfold runSlave; split <;> simp_all

theorem runSender_next {seg : State → Answer} :
    runSender seg s = .next t ↔
      s.enabled .is = true ∧ seg (s.withSnd { s.snd with susp := .none }) = .next t := by
  unfold runSender; split <;> simp_all

theorem runReceiver_next {j : Nat} {u : ReceiverUnit} {seg : ReceiverUnit → State → Answer} :
    runReceiver j u seg s = .next t ↔
      s.enabled (.ir j) = true ∧ seg { u with susp := .none } (s.withRcv j { u with susp := .none }) = .next t := by
  unfold runReceiver; split <;> simp_all

theorem withSlave_next {m : Nat → SlaveUnit → Answer} :
    withSlave m s = .next t ↔ ∃ k u, s.sel = .su k ∧ s.su[k]? = some u ∧ m k u = .next t := by
  unfold withSlave
  cases h : s.sel <;> simp
  case su k => cases h' : s.su[k]? <;> simp

theorem withReceiver_next {m : Nat → ReceiverUnit → Answer} :
    withReceiver m s = .next t ↔ ∃ j u, s.sel = .ir j ∧ s.rcv[j]? = some u ∧ m j u = .next t := by
  unfold withReceiver
  cases h : s.sel <;> simp
  case ir j => cases h' : s.rcv[j]? <;> simp

theorem muWaitUntil_next {p : MasterPhase} {g : Signal} {v : Bool} {rest : State → Answer} :
    muWaitUntil p g v rest s = .next t ↔
      (s.level g = v ∧ rest (s.withMu { s.mu with phase := p }) = .next t) ∨
      (s.level g ≠ v ∧ s.withMu { s.mu with phase := p, susp := .level g v } = t) := by
  unfold muWaitUntil; split <;> simp_all

theorem completeMaster_next {r : Result} :
    completeMaster r s = .next t ↔
      s.withMu { s.mu with phase := .idle, susp := .none, lop := .none, port := s.mu.port.complete s.now r } = t := by
  simp [completeMaster]

theorem completeSlave_next {k : Nat} {r : Result} {u : SlaveUnit} :
    completeSlave k r u s = .next t ↔
      s.withSu k { u with phase := .idle, susp := .none, lop := .none, port := u.port.complete s.now r } = t := by
  simp [completeSlave]

theorem takeMatch_next {dir : SlaveDir} {rest : State → State} :
    takeMatch dir rest s = .next t ↔
      s.served = false ∧ (s.mu.pairs = some dir ∨ s.mu.pairs = none) ∧ rest (s.markServed true) = t := by
  unfold takeMatch
  cases h : s.served
  · simp only [Bool.false_eq_true, if_false, true_and]
    split <;> simp_all
  · simp

/-! ## MW -/

/-- MW to its first suspension. -/
theorem mwBegin_pin (h : s.cfg.variant = .pin) :
    mwBegin s =
      (((s.markServed false).driveAddress s.mu.a).driveData s.mu.d).muWaitfor (.mw .setup) s.cfg.tSetup := by
  simp [mwBegin, h]

theorem mwBegin_txn (h : s.cfg.variant = .txn) :
    mwBegin s =
      (((s.markServed false).drivePendingAddress s.mu.a).drivePendingData s.mu.d).muWaitfor (.mw .txnSetup)
        s.cfg.tSetup := by
  simp [mwBegin, h]

theorem mwAwaitAck_next :
    mwAwaitAck s = .next t ↔
      (s.bus.ack = true ∧ s.muWaitfor (.mw .hold) s.cfg.tWHold = t) ∨
      (s.bus.ack = false ∧ s.withMu { s.mu with phase := .mw .waitAck, susp := .level .ack true } = t) := by
  simp [mwAwaitAck, muWaitUntil_next, State.level, State.muWaitfor, State.withMu]

theorem mwRelease_next {ret : State → Answer} :
    mwRelease ret s = .next t ↔
      (s.bus.ack = false ∧ ret (s.withMu { s.mu with phase := .mw .waitRel }) = .next t) ∨
      (s.bus.ack = true ∧ s.withMu { s.mu with phase := .mw .waitRel, susp := .level .ack false } = t) := by
  simp [mwRelease, muWaitUntil_next, State.level]

/-- Everything a segment of MW can do. -/
theorem mwSegment_next {ret : State → Answer} {p : MwPoint} (h : mwSegment ret p s = .next t) :
    (p = .start ∧ mwBegin s = t) ∨
    ((p = .setup ∧ mwAwaitAck (s.driveReady true) = .next t) ∨ (p = .waitAck ∧ mwAwaitAck s = .next t)) ∨
    ((p = .hold ∧ mwRelease ret (s.driveReady false) = .next t) ∨ (p = .waitRel ∧ mwRelease ret s = .next t)) ∨
    (p = .txnSetup ∧ (s.notify .readyNotice).muWaitNotice (.mw .txnWaitAck) .ackNotice = t) ∨
    (p = .txnWaitAck ∧ s.muWaitfor (.mw .txnHold) s.cfg.tWHold = t) ∨
    (p = .txnHold ∧ ret s = .next t) := by
  cases p <;> simp_all [mwSegment]

/-! ## MR -/

theorem mrBegin_pin (h : s.cfg.variant = .pin) :
    mrBegin s = ((s.markServed false).driveAddress s.mu.a).muWaitfor (.mr .setup) s.cfg.tSetup := by
  simp [mrBegin, h]

theorem mrBegin_txn (h : s.cfg.variant = .txn) :
    mrBegin s = ((s.markServed false).drivePendingAddress s.mu.a).muWaitfor (.mr .txnSetup) s.cfg.tSetup := by
  simp [mrBegin, h]

theorem mrSample_next {c : CellName} {cell : Option Word} {p : MrPoint} :
    mrSample c cell p s = .next t ↔
      ∃ w, cell = some w ∧ (s.withMu { s.mu with q := w }).muWaitfor (.mr p) s.cfg.tRHold = t := by
  simp [mrSample, readCell_next]

theorem mrAwaitAck_next :
    mrAwaitAck s = .next t ↔
      (s.bus.ack = true ∧ ∃ w, s.bus.data = some w ∧
        (s.withMu { s.mu with q := w }).muWaitfor (.mr .hold) s.cfg.tRHold = t) ∨
      (s.bus.ack = false ∧ s.withMu { s.mu with phase := .mr .waitAck, susp := .level .ack true } = t) := by
  simp [mrAwaitAck, muWaitUntil_next, mrSample_next, State.level, State.muWaitfor, State.withMu]

theorem mrRelease_next {ret : State → Answer} :
    mrRelease ret s = .next t ↔
      (s.bus.ack = false ∧ ret (s.withMu { s.mu with phase := .mr .waitRel }) = .next t) ∨
      (s.bus.ack = true ∧ s.withMu { s.mu with phase := .mr .waitRel, susp := .level .ack false } = t) := by
  simp [mrRelease, muWaitUntil_next, State.level]

/-- Everything a segment of MR can do. -/
theorem mrSegment_next {ret : State → Answer} {p : MrPoint} (h : mrSegment ret p s = .next t) :
    (p = .start ∧ mrBegin s = t) ∨
    ((p = .setup ∧ mrAwaitAck (s.driveReady true) = .next t) ∨ (p = .waitAck ∧ mrAwaitAck s = .next t)) ∨
    ((p = .hold ∧ mrRelease ret (s.driveReady false) = .next t) ∨ (p = .waitRel ∧ mrRelease ret s = .next t)) ∨
    (p = .txnSetup ∧ (s.notify .readyNotice).muWaitNotice (.mr .txnWaitAck) .ackNotice = t) ∨
    (p = .txnWaitAck ∧ mrSample .pendingData s.txn.pendingData .txnHold s = .next t) ∨
    (p = .txnHold ∧ ret s = .next t) := by
  cases p <;> simp_all [mrSegment]

/-! ## SR and SW -/

/-- Everything a matched pass of PIN can do: capture or drive, once, in the pairing direction. -/
theorem servePin_next {k : Nat} {u : SlaveUnit} :
    servePin k u s = .next t ↔
      s.served = false ∧ (s.mu.pairs = some u.dir ∨ s.mu.pairs = none) ∧
      ((u.dir = .capture ∧ ∃ w, s.bus.data = some w ∧
          (s.markServed true).suWaitfor k { u with q := w } .service s.cfg.tSlave = t) ∨
       (u.dir = .drive ∧ ((s.markServed true).driveData u.d).suWaitfor k u .service s.cfg.tSlave = t)) := by
  unfold servePin
  cases h : u.dir <;> simp [readCell_next, takeMatch_next]; aesop

/-- Everything the address test of PIN can do. -/
theorem testPin_next {k : Nat} {u : SlaveUnit} :
    testPin k u s = .next t ↔
      ∃ x, s.bus.address = some x ∧
        ((x = u.a ∧ servePin k u s = .next t) ∨ (x ≠ u.a ∧ s.suWaitfor k u .backoff s.cfg.tBackoff = t)) := by
  simp only [testPin, readCell_next]
  refine exists_congr fun x => and_congr_right fun _ => ?_
  split <;> simp_all

theorem suAwaitReady_next {k : Nat} {u : SlaveUnit} :
    suAwaitReady k u s = .next t ↔
      (s.bus.ready = true ∧ testPin k u s = .next t) ∨
      (s.bus.ready = false ∧ s.suSuspend k u .waitReady (.level .ready true) = t) := by
  unfold suAwaitReady; split <;> simp_all

theorem suAwaitRelease_next {k : Nat} {u : SlaveUnit} :
    suAwaitRelease k u s = .next t ↔
      (s.bus.ready = false ∧ s.suWaitfor k u .ackRel s.cfg.tAckRel = t) ∨
      (s.bus.ready = true ∧ s.suSuspend k u .waitRel (.level .ready false) = t) := by
  unfold suAwaitRelease; split <;> simp_all

/-- Everything a matched pass of TXN can do. -/
theorem serveTxn_next {k : Nat} {u : SlaveUnit} :
    serveTxn k u s = .next t ↔
      s.served = false ∧ (s.mu.pairs = some u.dir ∨ s.mu.pairs = none) ∧
      ((u.dir = .capture ∧ ∃ w, s.txn.pendingData = some w ∧
          (s.markServed true).suWaitfor k { u with q := w } .txnService s.cfg.tSlave = t) ∨
       (u.dir = .drive ∧ ((s.markServed true).drivePendingData u.d).suWaitfor k u .txnService s.cfg.tSlave = t)) := by
  unfold serveTxn
  cases h : u.dir <;> simp [readCell_next, takeMatch_next]; aesop

/-- Everything the address test of TXN can do. -/
theorem testTxn_next {k : Nat} {u : SlaveUnit} :
    testTxn k u s = .next t ↔
      ∃ x, s.txn.pendingAddress = some x ∧
        ((x = u.a ∧ serveTxn k u s = .next t) ∨
         (x ≠ u.a ∧ s.suSuspend k u .txnWaitReady (.notice .readyNotice) = t)) := by
  simp only [testTxn, readCell_next]
  refine exists_congr fun x => and_congr_right fun _ => ?_
  split <;> simp_all

theorem slaveBegin_next {k : Nat} {u : SlaveUnit} :
    slaveBegin k u s = .next t ↔
      (s.cfg.variant = .pin ∧ suAwaitReady k u s = .next t) ∨
      (s.cfg.variant = .txn ∧ s.suSuspend k u .txnWaitReady (.notice .readyNotice) = t) := by
  unfold slaveBegin; cases s.cfg.variant <;> simp

/-- Everything a segment of SR or SW can do. -/
theorem slaveSegment_next {k : Nat} {ret : SlaveUnit → State → Answer} {p : SlavePoint} {u : SlaveUnit}
    (h : slaveSegment k ret p u s = .next t) :
    (p = .start ∧ slaveBegin k u s = .next t) ∨
    ((p = .waitReady ∨ p = .backoff) ∧ suAwaitReady k u s = .next t) ∨
    ((p = .service ∧ suAwaitRelease k u (s.driveAck true) = .next t) ∨
      (p = .waitRel ∧ suAwaitRelease k u s = .next t)) ∨
    (p = .ackRel ∧ ret u (s.driveAck false) = .next t) ∨
    (p = .txnWaitReady ∧ testTxn k u s = .next t) ∨
    (p = .txnService ∧ s.suWaitfor k u .txnAckRel s.cfg.tAckRel = t) ∨
    (p = .txnAckRel ∧ ret u (s.notify .ackNotice) = .next t) := by
  cases p <;> simp_all [slaveSegment]

/-! ## The operation in progress -/

/-- A unit inside a word-level call has an operation, and the other way round for the other phases. -/
theorem MasterUnit.current_eq_none (u : MasterUnit) : u.current = none ↔ u.phase = .idle := by
  unfold MasterUnit.current
  cases u.phase <;> cases u.lop <;> simp

theorem SlaveUnit.current_eq_none (u : SlaveUnit) : u.current = none ↔ u.phase = .idle := by
  unfold SlaveUnit.current
  cases u.phase <;> cases u.lop <;> cases u.dir <;> simp

theorem SenderUnit.current_eq_none (u : SenderUnit) : u.current = none ↔ u.phase = .idle := by
  unfold SenderUnit.current
  cases u.phase <;> simp

theorem ReceiverUnit.current_eq_none (u : ReceiverUnit) : u.current = none ↔ u.phase = .idle := by
  unfold ReceiverUnit.current
  cases u.phase <;> simp

theorem MasterUnit.current_mw {u : MasterUnit} {a : Addr} {d : Word} (h : u.current = some (.mw a d)) :
    (∃ p, u.phase = .mw p) ∧ u.lop = .none ∧ u.a = a ∧ u.d = d := by
  unfold MasterUnit.current at h
  cases hp : u.phase <;> cases hl : u.lop <;> simp_all

theorem MasterUnit.current_mr {u : MasterUnit} {a : Addr} (h : u.current = some (.mr a)) :
    (∃ p, u.phase = .mr p) ∧ u.lop = .none ∧ u.a = a := by
  unfold MasterUnit.current at h
  cases hp : u.phase <;> cases hl : u.lop <;> simp_all

theorem MasterUnit.current_lmw {u : MasterUnit} {a : Addr} {n : Len} (h : u.current = some (.lmw a n)) :
    (u.phase = .lmwStart ∨ u.lop = .lmw) ∧ u.link.laddr = a ∧ u.link.len = n := by
  unfold MasterUnit.current at h
  cases hp : u.phase <;> cases hl : u.lop <;> simp_all

theorem MasterUnit.current_lmr {u : MasterUnit} {a : Addr} {n : Len} (h : u.current = some (.lmr a n)) :
    (u.phase = .lmrStart ∨ u.lop = .lmr) ∧ u.link.laddr = a ∧ u.link.len = n := by
  unfold MasterUnit.current at h
  cases hp : u.phase <;> cases hl : u.lop <;> simp_all

theorem SlaveUnit.current_sr {u : SlaveUnit} {a : Addr} (h : u.current = some (.sr a)) :
    (∃ p, u.phase = .word p) ∧ u.lop = .none ∧ u.dir = .capture ∧ u.a = a := by
  unfold SlaveUnit.current at h
  cases hp : u.phase <;> cases hl : u.lop <;> cases hd : u.dir <;> simp_all

theorem SlaveUnit.current_sw {u : SlaveUnit} {a : Addr} {d : Word} (h : u.current = some (.sw a d)) :
    (∃ p, u.phase = .word p) ∧ u.lop = .none ∧ u.dir = .drive ∧ u.a = a ∧ u.d = d := by
  unfold SlaveUnit.current at h
  cases hp : u.phase <;> cases hl : u.lop <;> cases hd : u.dir <;> simp_all

theorem SlaveUnit.current_lsw {u : SlaveUnit} {a : Addr} {n : Len} (h : u.current = some (.lsw a n)) :
    (u.phase = .lswStart ∨ u.lop = .lsw) ∧ u.link.laddr = a ∧ u.link.len = n := by
  unfold SlaveUnit.current at h
  cases hp : u.phase <;> cases hl : u.lop <;> cases hd : u.dir <;> simp_all

theorem SlaveUnit.current_lsr {u : SlaveUnit} {a : Addr} {n : Len} (h : u.current = some (.lsr a n)) :
    (u.phase = .lsrStart ∨ u.lop = .lsr) ∧ u.link.laddr = a ∧ u.link.len = n := by
  unfold SlaveUnit.current at h
  cases hp : u.phase <;> cases hl : u.lop <;> cases hd : u.dir <;> simp_all

end Sys2Proof.Machine
end

