-- ==== Sys2Proof/Laws/Exec.lean ====
section
/-! SUPPORT. Everything each meaning can do: it answers a next state exactly when it is an issue to an idle unit or a
segment of its own operation on an enabled unit (40_execution_model.md R77, R78). -/

namespace Sys2Proof.Machine

variable {s t : State}

theorem execMw_next {a : Addr} {d : Word} :
    execMw a d s = .next t ↔
      s.sel = .mu ∧
      ((s.mu.phase = .idle ∧ WellFormed s.cfg.dataWidth (.mw a d) = true ∧
          s.withMu { s.mu with phase := .mw .start, susp := .none, a := a, d := d, port := s.mu.port.begun } = t) ∨
       ∃ p, s.mu.phase = .mw p ∧ s.mu.current = some (.mw a d) ∧ s.enabled .mu = true ∧
          mwSegment (completeMaster .nothing) p (s.withMu { s.mu with susp := .none }) = .next t) := by
  unfold execMw
  by_cases h : s.sel = .mu
  · cases hp : s.mu.phase <;> simp [h, issue_next]
    split <;> simp_all [runMaster_next]
  · simp [h]

theorem execMr_next {a : Addr} :
    execMr a s = .next t ↔
      s.sel = .mu ∧
      ((s.mu.phase = .idle ∧
          s.withMu { s.mu with phase := .mr .start, susp := .none, a := a, port := s.mu.port.begun } = t) ∨
       ∃ p, s.mu.phase = .mr p ∧ s.mu.current = some (.mr a) ∧ s.enabled .mu = true ∧
          mrSegment (fun t => completeMaster (.word t.mu.q) t) p (s.withMu { s.mu with susp := .none }) = .next t) := by
  unfold execMr
  by_cases h : s.sel = .mu
  · cases hp : s.mu.phase <;> simp [h, issue_next, WellFormed]
    split <;> simp_all [runMaster_next]
  · simp [h]

theorem execLmw_next {a : Addr} {n : Len} :
    execLmw a n s = .next t ↔
      s.sel = .mu ∧
      ((s.mu.phase = .idle ∧ n.toNat ≤ s.handed.size ∧
          (s.drawLength n).withMu { s.mu with
            phase := .lmwStart, susp := .none, lop := .lmw, port := s.mu.port.begun,
            link := s.mu.link.latch a (s.latchedLength n) s.handed } = t) ∨
       (s.mu.phase = .lmwStart ∧ s.mu.current = some (.lmw a n) ∧ s.enabled .mu = true ∧
          lmwContinue (s.mu.link.writeEntry s.cfg.dataWidth) (s.withMu { s.mu with susp := .none }) = .next t) ∨
       ∃ p, s.mu.phase = .mw p ∧ s.mu.current = some (.lmw a n) ∧ s.enabled .mu = true ∧
          mwSegment lmwReturn p (s.withMu { s.mu with susp := .none }) = .next t) := by
  unfold execLmw
  by_cases h : s.sel = .mu
  · cases hp : s.mu.phase <;> simp [h, issueLink_next]
    all_goals split <;> simp_all [runMaster_next]
  · simp [h]

theorem execLmr_next {a : Addr} {n : Len} :
    execLmr a n s = .next t ↔
      s.sel = .mu ∧
      ((s.mu.phase = .idle ∧ n.toNat ≤ s.handed.size ∧
          (s.drawLength n).withMu { s.mu with
            phase := .lmrStart, susp := .none, lop := .lmr, port := s.mu.port.begun,
            link := s.mu.link.latch a (s.latchedLength n) s.handed } = t) ∨
       (s.mu.phase = .lmrStart ∧ s.mu.current = some (.lmr a n) ∧ s.enabled .mu = true ∧
          lmrContinue (s.mu.link.readEntry s.cfg.dataWidth) (s.withMu { s.mu with susp := .none }) = .next t) ∨
       ∃ p, s.mu.phase = .mr p ∧ s.mu.current = some (.lmr a n) ∧ s.enabled .mu = true ∧
          mrSegment lmrReturn p (s.withMu { s.mu with susp := .none }) = .next t) := by
  unfold execLmr
  by_cases h : s.sel = .mu
  · cases hp : s.mu.phase <;> simp [h, issueLink_next]
    all_goals split <;> simp_all [runMaster_next]
  · simp [h]

theorem execSr_next {a : Addr} :
    execSr a s = .next t ↔
      ∃ k u, s.sel = .su k ∧ s.su[k]? = some u ∧
      ((u.phase = .idle ∧
          s.withSu k { u with phase := .word .start, susp := .none, a := a, dir := .capture, port := u.port.begun } = t) ∨
       ∃ p, u.phase = .word p ∧ u.current = some (.sr a) ∧ s.enabled (.su k) = true ∧
          slaveSegment k (fun v t => completeSlave k (.word v.q) v t) p { u with susp := .none }
            (s.withSu k { u with susp := .none }) = .next t) := by
  simp only [execSr, withSlave_next]
  refine exists_congr fun k => exists_congr fun u => and_congr_right fun _ => and_congr_right fun _ => ?_
  cases hp : u.phase <;> simp [issue_next, WellFormed]
  split <;> simp_all [runSlave_next]

theorem execSw_next {a : Addr} {d : Word} :
    execSw a d s = .next t ↔
      ∃ k u, s.sel = .su k ∧ s.su[k]? = some u ∧
      ((u.phase = .idle ∧ WellFormed s.cfg.dataWidth (.sw a d) = true ∧
          s.withSu k { u with
            phase := .word .start, susp := .none, a := a, d := d, dir := .drive, port := u.port.begun } = t) ∨
       ∃ p, u.phase = .word p ∧ u.current = some (.sw a d) ∧ s.enabled (.su k) = true ∧
          slaveSegment k (completeSlave k .nothing) p { u with susp := .none }
            (s.withSu k { u with susp := .none }) = .next t) := by
  simp only [execSw, withSlave_next]
  refine exists_congr fun k => exists_congr fun u => and_congr_right fun _ => and_congr_right fun _ => ?_
  cases hp : u.phase <;> simp [issue_next]
  split <;> simp_all [runSlave_next]

theorem execLsw_next {a : Addr} {n : Len} :
    execLsw a n s = .next t ↔
      ∃ k u, s.sel = .su k ∧ s.su[k]? = some u ∧
      ((u.phase = .idle ∧ n.toNat ≤ s.handed.size ∧
          (s.drawLength n).withSu k { u with
            phase := .lswStart, susp := .none, lop := .lsw, port := u.port.begun,
            link := u.link.latch a (s.latchedLength n) s.handed } = t) ∨
       (u.phase = .lswStart ∧ u.current = some (.lsw a n) ∧ s.enabled (.su k) = true ∧
          lswContinue k (u.link.writeEntry s.cfg.dataWidth) { u with susp := .none }
            (s.withSu k { u with susp := .none }) = .next t) ∨
       ∃ p, u.phase = .word p ∧ u.current = some (.lsw a n) ∧ s.enabled (.su k) = true ∧
          slaveSegment k (lswReturn k) p { u with susp := .none } (s.withSu k { u with susp := .none }) = .next t) := by
  simp only [execLsw, withSlave_next]
  refine exists_congr fun k => exists_congr fun u => and_congr_right fun _ => and_congr_right fun _ => ?_
  cases hp : u.phase <;> simp [issueLink_next]
  all_goals split <;> simp_all [runSlave_next]

theorem execLsr_next {a : Addr} {n : Len} :
    execLsr a n s = .next t ↔
      ∃ k u, s.sel = .su k ∧ s.su[k]? = some u ∧
      ((u.phase = .idle ∧ n.toNat ≤ s.handed.size ∧
          (s.drawLength n).withSu k { u with
            phase := .lsrStart, susp := .none, lop := .lsr, port := u.port.begun,
            link := u.link.latch a (s.latchedLength n) s.handed } = t) ∨
       (u.phase = .lsrStart ∧ u.current = some (.lsr a n) ∧ s.enabled (.su k) = true ∧
          lsrContinue k (u.link.readEntry s.cfg.dataWidth) { u with susp := .none }
            (s.withSu k { u with susp := .none }) = .next t) ∨
       ∃ p, u.phase = .word p ∧ u.current = some (.lsr a n) ∧ s.enabled (.su k) = true ∧
          slaveSegment k (lsrReturn k) p { u with susp := .none } (s.withSu k { u with susp := .none }) = .next t) := by
  simp only [execLsr, withSlave_next]
  refine exists_congr fun k => exists_congr fun u => and_congr_right fun _ => and_congr_right fun _ => ?_
  cases hp : u.phase <;> simp [issueLink_next]
  all_goals split <;> simp_all [runSlave_next]

theorem execIsend_next :
    execIsend s = .next t ↔
      s.sel = .is ∧
      ((s.snd.phase = .idle ∧
          s.withSnd { s.snd with phase := .start, susp := .none, port := s.snd.port.begun } = t) ∨
       (s.snd.phase = .start ∧ s.enabled .is = true ∧ pulseUp (s.withSnd { s.snd with susp := .none }) = .next t) ∨
       (s.snd.phase = .pulse ∧ s.enabled .is = true ∧
          pulseDown (s.withSnd { s.snd with susp := .none }) = .next t)) := by
  unfold execIsend
  by_cases h : s.sel = .is
  · cases hp : s.snd.phase <;> simp [h, issue_next, WellFormed, runSender_next]
  · simp [h]

theorem execIrecv_next :
    execIrecv s = .next t ↔
      ∃ j u, s.sel = .ir j ∧ s.rcv[j]? = some u ∧
      ((u.phase = .idle ∧ s.withRcv j { u with phase := .start, susp := .none, port := u.port.begun } = t) ∨
       (u.phase = .start ∧ s.enabled (.ir j) = true ∧
          (s.withRcv j { u with susp := .none }).withRcv j { u with phase := .armed, susp := .edge } = t) ∨
       (u.phase = .armed ∧ s.enabled (.ir j) = true ∧
          (s.withRcv j { u with susp := .none }).withRcv j
            { u with phase := .idle, susp := .none, port := u.port.complete s.now .nothing } = t)) := by
  simp only [execIrecv, withReceiver_next]
  refine exists_congr fun j => exists_congr fun u => and_congr_right fun _ => and_congr_right fun _ => ?_
  cases hp : u.phase <;> simp_all [issue_next, WellFormed, runReceiver_next, armReceiver, completeReceiver]

end Sys2Proof.Machine
end

