-- ==== Sys2Proof/Laws/Step.lean ====
section
/-! SUPPORT. Everything a step can do, said once: a unit's move or the advance of time (40_execution_model.md R77); and the
shape of a proof that a step keeps an invariant. -/

namespace Sys2Proof.Machine

variable {s t : State}

/-! ## Choosing -/

theorem State.pickFrom_mem {us : List UnitId} {u : UnitId} (h : s.pickFrom us = some (u, t)) :
    u ∈ us ∧ t = { s with tick := s.tick + 1 } := by
  simp only [State.pickFrom, Option.map_eq_some_iff, Prod.mk.injEq] at h
  obtain ⟨v, hv, rfl, rfl⟩ := h
  exact ⟨List.mem_of_getElem? hv, rfl⟩

theorem State.pickFrom_isSome {us : List UnitId} (h : us ≠ []) : (s.pickFrom us).isSome = true := by
  have hl : 0 < us.length := List.length_pos_iff.mpr h
  simp [State.pickFrom, List.getElem?_eq_getElem (Nat.mod_lt _ hl)]

/-- The unit chosen can move, and the choice changes nothing but the order's own fields. -/
theorem State.choose_some {u : UnitId} (h : s.choose = some (u, t)) :
    u ∈ s.moves ∧ ∃ ag tk, t = { s with agenda := ag, tick := tk } := by
  unfold State.choose at h
  split at h
  · simp at h
  · rename_i v vs hm
    split at h
    · split at h
      · simp only [Option.some.injEq, Prod.mk.injEq] at h
        obtain ⟨rfl, rfl⟩ := h
        exact ⟨by rw [hm]; assumption, _, _, rfl⟩
      · split at h
        · simp only [Option.some.injEq, Prod.mk.injEq] at h
          obtain ⟨rfl, rfl⟩ := h
          exact ⟨by simp [hm], _, _, rfl⟩
        · obtain ⟨h1, h2⟩ := State.pickFrom_mem h
          exact ⟨by rw [hm]; exact h1, _, _, h2⟩
    · split at h
      · simp only [Option.some.injEq, Prod.mk.injEq] at h
        obtain ⟨rfl, rfl⟩ := h
        exact ⟨by simp [hm], _, _, rfl⟩
      · obtain ⟨h1, h2⟩ := State.pickFrom_mem h
        exact ⟨by rw [hm]; exact h1, _, _, h2⟩

/-- No unit is chosen only where none can move. -/
theorem State.choose_none : s.choose = none ↔ s.moves = [] := by
  unfold State.choose
  split
  · simp_all
  · rename_i v vs hm
    have hp := State.pickFrom_isSome (s := s) (us := v :: vs) (by simp)
    rw [Option.isSome_iff_ne_none] at hp
    split <;> (try split) <;> (try split) <;> simp_all

/-! ## Time -/

/-- There is no least element above a bound only where no element is above it. -/
theorem leastAbove_none {b : Nat} {ts : List Nat} : leastAbove b ts = none ↔ ∀ m ∈ ts, m ≤ b := by
  induction ts with
  | nil => simp [leastAbove]
  | cons x ts ih =>
    unfold leastAbove
    split <;> rename_i hr
    · split
      · simp; intro h; omega
      · simp only [true_iff, List.mem_cons, forall_eq_or_imp]
        exact ⟨by omega, ih.mp hr⟩
    · have : ¬ ∀ m ∈ ts, m ≤ b := fun h => by simp [ih.mpr h] at hr
      split <;> simp_all

/-- The least element above a bound: it is in the list, above the bound, and no element above the bound is below it. -/
theorem leastAbove_some {b n : Nat} {ts : List Nat} (h : leastAbove b ts = some n) :
    n ∈ ts ∧ b < n ∧ ∀ m ∈ ts, b < m → n ≤ m := by
  induction ts generalizing n with
  | nil => simp [leastAbove] at h
  | cons x ts ih =>
    unfold leastAbove at h
    split at h <;> rename_i hr
    · split at h
      · obtain rfl := Option.some.inj h
        refine ⟨by simp, by assumption, ?_⟩
        intro m hm hb
        rcases List.mem_cons.mp hm with rfl | hm
        · exact le_rfl
        · have := leastAbove_none.mp hr m hm; omega
      · simp at h
    · obtain ⟨h1, h2, h3⟩ := ih hr
      split at h
      all_goals
        obtain rfl := Option.some.inj h
        refine ⟨by simp [h1], by omega, ?_⟩
        intro m hm hb
        rcases List.mem_cons.mp hm with rfl | hm
        · omega
        · have := h3 m hm hb; omega

/-! ## Moves and steps -/

theorem issueMove_next {u : UnitId} {c : Command} :
    issueMove u c s = .next t ↔
      ∃ i, decodeFor u.kind s.cfg.dataWidth c.word = .ok i ∧ exec i (s.present u c) = .next t := by
  unfold issueMove
  cases decodeFor u.kind s.cfg.dataWidth c.word <;> simp

/-- Everything a unit's move can do: a segment of the operation in progress, or the issue of the due command. -/
theorem move_next {u : UnitId} :
    move u s = .next t ↔
      (∃ i, s.current u = some i ∧ exec i (s.select u) = .next t) ∨
      (s.current u = none ∧ ∃ c i, s.dueCommand u = some c ∧
        decodeFor u.kind s.cfg.dataWidth c.word = .ok i ∧ exec i (s.present u c) = .next t) := by
  unfold move
  cases hc : s.current u
  · cases hd : s.dueCommand u <;> simp [issueMove_next]
  · simp

/-- Everything a step can do. -/
theorem step_next :
    step s = .next t ↔
      s.cfg.legal = true ∧
      ((∃ u r, s.choose = some (u, r) ∧ move u r = .next t) ∨
       (s.choose = none ∧ ∃ n, s.nextTime = some n ∧ s.advance n = t)) := by
  unfold step stepOnce
  split
  · cases hc : s.choose with
    | none =>
      cases hn : s.nextTime with
      | none => simp_all; split <;> simp
      | some n => simp_all
    | some x => obtain ⟨u, r⟩ := x; simp_all
  · simp_all

/-! ## Presenting a command -/

section
variable (u : UnitId)

@[simp] theorem State.popCommand_cfg : (s.popCommand u).cfg = s.cfg := by
  unfold State.popCommand; split <;> (try split) <;> rfl
@[simp] theorem State.popCommand_now : (s.popCommand u).now = s.now := by
  unfold State.popCommand; split <;> (try split) <;> rfl
@[simp] theorem State.popCommand_bus : (s.popCommand u).bus = s.bus := by
  unfold State.popCommand; split <;> (try split) <;> rfl
@[simp] theorem State.popCommand_txn : (s.popCommand u).txn = s.txn := by
  unfold State.popCommand; split <;> (try split) <;> rfl
@[simp] theorem State.popCommand_intr : (s.popCommand u).intr = s.intr := by
  unfold State.popCommand; split <;> (try split) <;> rfl
@[simp] theorem State.popCommand_served : (s.popCommand u).served = s.served := by
  unfold State.popCommand; split <;> (try split) <;> rfl

end

/-- A command taken off a list changes nothing of `MU` but its port. -/
theorem State.popCommand_mu (u : UnitId) : ∃ p, (s.popCommand u).mu = { s.mu with port := p } := by
  unfold State.popCommand
  split
  · exact ⟨_, rfl⟩
  · split <;> exact ⟨s.mu.port, rfl⟩
  · exact ⟨s.mu.port, rfl⟩
  · split <;> exact ⟨s.mu.port, rfl⟩

/-- A command taken off a list changes nothing of `IS` but its port. -/
theorem State.popCommand_snd (u : UnitId) : ∃ p, (s.popCommand u).snd = { s.snd with port := p } := by
  unfold State.popCommand
  split
  · exact ⟨s.snd.port, rfl⟩
  · split <;> exact ⟨s.snd.port, rfl⟩
  · exact ⟨_, rfl⟩
  · split <;> exact ⟨s.snd.port, rfl⟩

/-- A command taken off a list changes nothing of the slave-side units but a port. -/
theorem State.popCommand_su (u : UnitId) :
    (s.popCommand u).su = s.su ∨
    ∃ k v p, s.su[k]? = some v ∧ (s.popCommand u).su = s.su.set k { v with port := p } := by
  unfold State.popCommand
  split
  · exact .inl rfl
  · split
    · exact .inr ⟨_, _, _, ‹_›, rfl⟩
    · exact .inl rfl
  · exact .inl rfl
  · split <;> exact .inl rfl

/-- A command taken off a list changes nothing of the receivers but a port. -/
theorem State.popCommand_rcv (u : UnitId) :
    (s.popCommand u).rcv = s.rcv ∨
    ∃ j v p, s.rcv[j]? = some v ∧ (s.popCommand u).rcv = s.rcv.set j { v with port := p } := by
  unfold State.popCommand
  split
  · exact .inl rfl
  · split <;> exact .inl rfl
  · exact .inl rfl
  · split
    · exact .inr ⟨_, _, _, ‹_›, rfl⟩
    · exact .inl rfl

/-! ## Invariants -/

/-- A step keeps a property that does not depend on the order's fields or on the unit selected, that taking a command off a
list and handing its buffer over keeps, that every operation keeps, and that the advance of time keeps. -/
theorem step_keeps (P : State → Prop)
    (order : ∀ s u ag tk, P s → P { s with sel := u, agenda := ag, tick := tk })
    (present : ∀ s u c, P s → s.dueCommand u = some c → P (s.present u c))
    (operation : ∀ i s t, P s → exec i s = .next t → P t)
    (time : ∀ s n, P s → s.moves = [] → s.nextTime = some n → P (s.advance n))
    (h : P s) (hs : step s = .next t) : P t := by
  obtain ⟨-, ⟨u, r, hc, hm⟩ | ⟨hc, n, hn, rfl⟩⟩ := step_next.mp hs
  · obtain ⟨-, ag, tk, rfl⟩ := State.choose_some hc
    rcases move_next.mp hm with ⟨i, -, he⟩ | ⟨-, c, i, hd, -, he⟩
    · exact operation i _ t (order _ u ag tk h) he
    · exact operation i _ t (present _ u c (order _ s.sel ag tk h) hd) he
  · exact time s n h (State.choose_none.mp hc) hn

end Sys2Proof.Machine
end

