-- ==== Sys2Proof/Laws/PerInstr.lean ====
section
/-! SUPPORT. Statements about every instruction as syntax, one lemma per constructor: the fields of its command word
(30_encoding.md R58 to R62). -/

namespace Sys2Proof.Laws.Encoding

/-- The command word of an operation has its operation code, a zero `rsv`, its address and its argument in the fields of
30_encoding.md R58; what its format leaves out is zero (R59); and of the units only the kind that accepts it decodes it as an
operation of its own (R62). -/
def Statement (i : Instr) : Prop :=
  CommandWord.op (encode i) = i.opcode ∧ CommandWord.rsv (encode i) = 0 ∧
  CommandWord.addr (encode i) = i.addrField ∧ CommandWord.arg (encode i) = i.argField ∧
  (i.format = .a → i.argField = 0) ∧ (i.format = .n → i.addrField = 0 ∧ i.argField = 0) ∧
  (∀ kind dw, decodeFor kind dw (encode i) = .ok i → kind = i.acceptedBy)

/-- The four fields of an encoded word. -/
theorem fields (i : Instr) :
    CommandWord.op (encode i) = i.opcode ∧ CommandWord.rsv (encode i) = 0 ∧
    CommandWord.addr (encode i) = i.addrField ∧ CommandWord.arg (encode i) = i.argField := by
  simp only [CommandWord.op, CommandWord.rsv, CommandWord.addr, CommandWord.arg, encode]
  generalize i.opcode = o
  generalize i.addrField = a
  generalize i.argField = d
  refine ⟨?_, ?_, ?_, ?_⟩ <;> ext j hj <;> simp only [BitVec.getElem_extractLsb', BitVec.getLsbD_append] <;> grind

/-- Only the accepting kind of unit takes a word as the operation. -/
theorem accepted {kind : UnitKind} {dw : DataWidth} {cw : CommandWord} {i : Instr}
    (h : decodeFor kind dw cw = .ok i) : kind = i.acceptedBy := by
  unfold decodeFor at h
  cases hd : decode dw cw with
  | error e => simp [hd] at h
  | ok j =>
    rw [hd] at h
    simp only at h
    split at h
    · simp only [Except.ok.injEq] at h
      subst h
      exact Eq.symm ‹_›
    · simp at h

theorem mw (a : Addr) (d : Word) : Statement (.mw a d) :=
  ⟨(fields _).1, (fields _).2.1, (fields _).2.2.1, (fields _).2.2.2, by simp [Instr.format], by simp [Instr.format],
    fun _ _ => accepted⟩

theorem mr (a : Addr) : Statement (.mr a) :=
  ⟨(fields _).1, (fields _).2.1, (fields _).2.2.1, (fields _).2.2.2, fun _ => rfl, by simp [Instr.format],
    fun _ _ => accepted⟩

theorem sw (a : Addr) (d : Word) : Statement (.sw a d) :=
  ⟨(fields _).1, (fields _).2.1, (fields _).2.2.1, (fields _).2.2.2, by simp [Instr.format], by simp [Instr.format],
    fun _ _ => accepted⟩

theorem sr (a : Addr) : Statement (.sr a) :=
  ⟨(fields _).1, (fields _).2.1, (fields _).2.2.1, (fields _).2.2.2, fun _ => rfl, by simp [Instr.format],
    fun _ _ => accepted⟩

theorem lmw (a : Addr) (n : Len) : Statement (.lmw a n) :=
  ⟨(fields _).1, (fields _).2.1, (fields _).2.2.1, (fields _).2.2.2, by simp [Instr.format], by simp [Instr.format],
    fun _ _ => accepted⟩

theorem lmr (a : Addr) (n : Len) : Statement (.lmr a n) :=
  ⟨(fields _).1, (fields _).2.1, (fields _).2.2.1, (fields _).2.2.2, by simp [Instr.format], by simp [Instr.format],
    fun _ _ => accepted⟩

theorem lsw (a : Addr) (n : Len) : Statement (.lsw a n) :=
  ⟨(fields _).1, (fields _).2.1, (fields _).2.2.1, (fields _).2.2.2, by simp [Instr.format], by simp [Instr.format],
    fun _ _ => accepted⟩

theorem lsr (a : Addr) (n : Len) : Statement (.lsr a n) :=
  ⟨(fields _).1, (fields _).2.1, (fields _).2.2.1, (fields _).2.2.2, by simp [Instr.format], by simp [Instr.format],
    fun _ _ => accepted⟩

theorem isend : Statement .isend :=
  ⟨(fields _).1, (fields _).2.1, (fields _).2.2.1, (fields _).2.2.2, by simp [Instr.format], fun _ => ⟨rfl, rfl⟩,
    fun _ _ => accepted⟩

theorem irecv : Statement .irecv :=
  ⟨(fields _).1, (fields _).2.1, (fields _).2.2.1, (fields _).2.2.2, by simp [Instr.format], fun _ => ⟨rfl, rfl⟩,
    fun _ _ => accepted⟩

end Sys2Proof.Laws.Encoding
end

