-- ==== Sys2Proof/Tests/Slice0.lean ====
section
/-! SUPPORT. The model's own tests: expected values from 30_encoding.md R71 and 95_test_vectors.md or by hand from the rules
named, and for each obligation with hypotheses a state that meets them. -/

namespace Sys2Proof.Tests

open Machine

/-! ## Well-formedness and decoding -/

/-- A data word of nine bits under `DATA_WIDTH` = 8, and of seventeen under 16, is refused; the widest that fits is not. -/
theorem test_wellFormed_mw : WellFormed .w8 (.mw 0 0x100) = false ∧ WellFormed .w16 (.mw 0 0x10000) = false ∧
    WellFormed .w8 (.mw 0xFFFF 0xFF) = true ∧ WellFormed .w32 (.mw 0xFFFF 0xFFFFFFFF) = true := by decide

theorem test_wellFormed_sw : WellFormed .w8 (.sw 0 0x100) = false ∧ WellFormed .w16 (.sw 0 0x10000) = false ∧
    WellFormed .w16 (.sw 0xFFFF 0xFFFF) = true := by decide

/-- The words of R71 written out bit by bit from R58: `op`, `rsv`, `addr`, `arg`. -/
theorem test_decode_mw : decode .w32 0b0000000000000000000000000001000001000001010000100100001101000100#64 =
    .ok (.mw 0x0010 0x41424344) := by decide

theorem test_decode_mr : decode .w32 0b0001000000000000000000000001000000000000000000000000000000000000#64 =
    .ok (.mr 0x0010) := by decide

theorem test_decode_sw : decode .w32 0b0010000000000000000000000001000011011110101011011011111011101111#64 =
    .ok (.sw 0x0010 0xDEADBEEF) := by decide

theorem test_decode_sr : decode .w32 0b0011000000000000000000000001000000000000000000000000000000000000#64 =
    .ok (.sr 0x0010) := by decide

theorem test_decode_lmw : decode .w32 0b0100000000000000000000000001000000000000000000000000000000000110#64 =
    .ok (.lmw 0x0010 6) := by decide

theorem test_decode_lmr : decode .w32 0b0101000000000000000000000001000000000000000000000000000000000101#64 =
    .ok (.lmr 0x0010 5) := by decide

theorem test_decode_lsw : decode .w32 0b0110000000000000000000000001000000000000000000000000000000000101#64 =
    .ok (.lsw 0x0010 5) := by decide

theorem test_decode_lsr : decode .w32 0b0111000000000000000000000001000000000000000000000000000000000110#64 =
    .ok (.lsr 0x0010 6) := by decide

theorem test_decode_isend : decode .w32 0b1000000000000000000000000000000000000000000000000000000000000000#64 =
    .ok .isend := by decide

theorem test_decode_irecv : decode .w32 0b1001000000000000000000000000000000000000000000000000000000000000#64 =
    .ok .irecv := by decide

/-- The invalid words of R71, and every reserved operation code. -/
theorem test_decode_invalid :
    (∀ op ∈ [0xA#4, 0xB#4, 0xC#4, 0xD#4, 0xE#4, 0xF#4], decode .w32 (op ++ 0#60) = .error .reservedOp) ∧
    decode .w32 0x0001001041424344#64 = .error .rsvNotZero ∧ decode .w32 0x1000001000000001#64 = .error .argNotZero ∧
    decode .w32 0x8000001000000000#64 = .error .addrNotZero ∧
    decode .w16 0x0000001000014142#64 = .error .argNotZero := by decide

/-- A unit takes only its own operations (R62). -/
theorem test_decode_wrongUnit : decodeFor .slave .w32 0x1000001000000000#64 = .error .wrongUnit ∧
    decodeFor .master .w32 0x1000001000000000#64 = .ok (.mr 0x0010) := by decide

theorem test_table_word : decodeTableWord 64 0x7000001000000006 = some (.lsr 0x0010 6) ∧
    decodeTableWord 64 0xA000000000000000 = none := by decide

/-! ## States for one step -/

/-- Whether an answer is a next state. -/
def isNext : Answer → Bool
  | .next _ => true
  | .fault _ => false
  | .refused _ => false

/-- The next state of an answer; the state after reset where there is none. -/
def after : Answer → State
  | .next t => t
  | .fault _ => State.reset
  | .refused _ => State.reset

theorem isNext_iff {x : Answer} : isNext x = true ↔ ∃ t, x = .next t := by
  cases x <;> simp [isNext]

/-- The default configuration under `TXN`. -/
def txnConfig : Config := { Config.default with variant := .txn }

/-- Lines with the address 0x0010 and the word 0x41424344 on them. -/
def bus (ready ack : Bool) : BusSignals := ⟨ready, ack, some 0x0010, some 0x41424344⟩

/-- A link with a six-byte buffer, at an index. -/
def linkAt (n : Len) (idx cnt : Nat) : Link :=
  ⟨0x0010, n, idx, 0x41424344, cnt, Buffer.ofBytes [0x41, 0x42, 0x43, 0x44, 0x45, 0x46]⟩

/-- The step works on `MU`, at a phase, runnable, in a configuration. -/
def muAt (c : Config) (ph : MasterPhase) (lop : MasterLop) (l : Link) (ready ack : Bool) : State :=
  { State.resetWith c with
    sel := .mu
    bus := bus ready ack
    txn := ⟨some 0x0010, some 0x41424344⟩
    mu := { MasterUnit.reset with
      phase := ph, a := 0x0010, d := 0x41424344, q := 0xDEADBEEF, lop := lop, link := l } }

/-- `MU` at a point of MW or MR as the host issued it. -/
def wordMu (ph : MasterPhase) (ready ack : Bool) : State := muAt Config.default ph .none Link.reset ready ack

/-- The step works on `SU[0]`, at a phase, runnable, while `MU` is at a phase of its own. -/
def suAt (c : Config) (ph : SlavePhase) (dir : SlaveDir) (lop : SlaveLop) (l : Link) (m : MasterPhase)
    (ready ack : Bool) : State :=
  let s := muAt c m .none Link.reset ready ack
  { s with
    sel := .su 0
    su := [{ SlaveUnit.reset with
      phase := ph, a := 0x0010, d := 0x41424344, q := 0x41424344, dir := dir, lop := lop, link := l }] }

/-- `SU[0]` at a point of SR or SW as the host issued it. -/
def wordSu (p : SlavePoint) (dir : SlaveDir) (m : MasterPhase) (ready ack : Bool) : State :=
  suAt Config.default (.word p) dir .none Link.reset m ready ack

/-- The step works on `IS` at a phase. -/
def sndAt (ph : SenderPhase) (intr : Bool) : State :=
  { State.reset with sel := .is, intr := intr, snd := { SenderUnit.reset with phase := ph } }

/-- The step works on `IR[0]` at a phase. -/
def rcvAt (ph : ReceiverPhase) (w : Susp) (intr : Bool) : State :=
  { State.reset with
    sel := .ir 0, intr := intr, rcv := [{ ReceiverUnit.reset with phase := ph, susp := w }, ReceiverUnit.reset] }

/-- A state whose buffer handed over has six bytes. -/
def handing (s : State) : State := { s with handed := Buffer.ofBytes [1, 2, 3, 4, 5, 6] }

/-! ## Steps, by hand from the rules -/

/-- 41_handshake_pin.md R94: at 0 the address and the word are driven, `ready` is not yet. -/
theorem test_mw_drives : (after (exec (.mw 0x0010 0x41424344)
    { wordMu (.mw .start) false false with bus := ⟨false, false, none, none⟩ })).bus = bus false false := by decide

/-- R94: with `ack` seen the hold is 10000. -/
theorem test_mw_holds : (after (exec (.mw 0x0010 0x41424344) (wordMu (.mw .waitAck) true true))).mu.susp =
    .until 10000 := by decide

/-- R95: MR drives no data. -/
theorem test_mr_drives : (after (exec (.mr 0x0010)
    { wordMu (.mr .start) false false with bus := ⟨false, false, none, none⟩ })).bus = ⟨false, false, some 0x0010, none⟩ := by
  decide

/-- R95: the sample is the word on the line when `ack` is seen, and the hold is 15000. -/
theorem test_mr_samples :
    let m := (after (exec (.mr 0x0010) (wordMu (.mr .waitAck) true true))).mu
    m.q = 0x41424344 ∧ m.susp = .until 15000 := by decide

/-- R96: SR captures the word on the line and serves for 12000. -/
theorem test_sr_captures :
    let s := after (exec (.sr 0x0010) (wordSu .waitReady .capture (.mw .waitAck) true false))
    s.su.map (fun u => (u.q, u.susp)) = [(0x41424344, .until 12000)] ∧ s.bus.ack = false := by decide

/-- R99: an attempt at another address drives nothing and backs off for 1000. -/
theorem test_sr_backs_off :
    let s := { wordSu .waitReady .capture (.mw .waitAck) true false with bus := ⟨true, false, some 0x0020, some 1⟩ }
    (after (exec (.sr 0x0010) s)).bus = s.bus ∧
    (after (exec (.sr 0x0010) s)).su.map SlaveUnit.susp = [.until 1000] := by decide

/-- R97: SW drives its word at the match. -/
theorem test_sw_drives : (after (exec (.sw 0x0010 0x41424344)
    { wordSu .waitReady .drive (.mr .waitAck) true false with bus := ⟨true, false, some 0x0010, none⟩ })).bus =
    bus true false := by decide

/-- R97: after `T_ACKREL` SW drops `ack` and is idle. -/
theorem test_sw_completes :
    let s := after (exec (.sw 0x0010 0x41424344) (wordSu .ackRel .drive (.mr .waitRel) false true))
    s.bus.ack = false ∧ s.su.map SlaveUnit.phase = [.idle] := by decide

/-- R124, R134: two bytes make the word 0x41420000. -/
theorem test_lmw_pads : (after (exec (.lmw 0x0010 2)
    (muAt Config.default .lmwStart .lmw (linkAt 2 0 0) false false))).bus.data = some 0x41420000 := by decide

/-- R134: four bytes make the word 0x41424344. -/
theorem test_lmw_packs : (after (exec (.lmw 0x0010 4)
    (muAt Config.default .lmwStart .lmw (linkAt 4 0 0) false false))).bus.data = some 0x41424344 := by decide

/-- R126: of 0xDEADBEEF a three-byte LMR stores 0xDE, 0xAD, 0xBE and leaves byte 3 as it was. -/
theorem test_lmr_unpacks : ((after (exec (.lmr 0x0010 3)
    (muAt Config.default (.mr .waitRel) .lmr (linkAt 3 0 0) false false))).mu.link.buf).toBytes 4 =
    [0xDE, 0xAD, 0xBE, 0x44] := by decide

/-- R127: with `DATA_WIDTH` = 16 the third word of five bytes is the fifth byte padded. -/
theorem test_lsw_pads :
    let l : Link := ⟨0x0010, 5, 4, 0, 2, Buffer.ofBytes [1, 2, 3, 4, 5]⟩
    (l.writeReturn .w16).1.acc = 0x0500 ∧ (l.writeReturn .w16).2 = true := by decide

/-- R128: 0x41424344, then 0x45460000, give the six bytes back. -/
theorem test_lsr_unpacks :
    let l : Link := ⟨0x0010, 6, 0, 0, 0, Buffer.zeros 6⟩
    (l.readCall .w32 (fun j => if j = 0 then 0x41424344 else 0x45460000) 2).1.buf.toBytes 6 =
      [0x41, 0x42, 0x43, 0x44, 0x45, 0x46] := by decide

/-- R136: the pulse is 5000 wide. -/
theorem test_isend_raises :
    let s := after (exec .isend (sndAt .start false))
    s.intr = true ∧ s.snd.susp = .until 5000 := by decide

/-- R137: a receiver arms even while the line is 1. -/
theorem test_irecv_arms : (after (exec .irecv (rcvAt .start .none true))).rcv.map ReceiverUnit.susp = [.edge, .none] := by
  decide

/-- 93_implementation_defined.md U3: an undriven `data` gives MR's sample no meaning. -/
theorem test_mr_unwritten : isNext (exec (.mr 0x0010)
    { wordMu (.mr .waitAck) true true with bus := ⟨true, true, some 0x0010, none⟩ }) = false := by decide

/-- Log entry 8: the very next step issues the word placed. -/
theorem test_withFetchWord : (after (step (State.reset.withFetchWord 64 0x0000001041424344))).mu.current =
    some (.mw 0x0010 0x41424344) := by decide

/-- 30_encoding.md R67: commands go to the unit of the last `.unit` line, a `.at` line counts for the next command only. -/
theorem test_load :
    let p := [.unit (.su 1), .time 7, .command (.sr 0x0010) [], .command (.lsr 0x0010 2) [1, 2], .unit .is, .command .isend []]
    ((after (State.load p .mu 0 State.reset)).su.map (fun u => u.port.todo.map (fun c => (c.word, c.time)))) =
      [[], [(0x3000001000000000#64, 7), (0x7000001000000002#64, 0)]] ∧
    (after (State.load p .mu 0 State.reset)).snd.port.todo.map Command.word = [0x8000000000000000#64] := by decide

/-- Log entry 9: a program for a unit the configuration does not have is refused. -/
theorem test_load_noSuchUnit : State.load [.unit (.su 5), .command (.sr 0x0010) []] .mu 0 State.reset =
    .refused .noSuchUnit := rfl

/-! ## The hypotheses of the obligations can be met: encoding, reset, steps -/

theorem test_DecodeOfEncode : WellFormed .w8 (.mw 0xFFFF 0xFF) = true := by decide

theorem test_EncodeOfDecode : decode .w8 0x2000FFFF000000FF#64 = .ok (.sw 0xFFFF 0xFF) := by decide

theorem test_NothingHappensAfterReset : Config.default.legal = true ∧ txnConfig.legal = true := by decide

/-- A state in which MW is running and a step follows. -/
def running : State := { State.reset with
  mu := { MasterUnit.reset with phase := .mw .setup, susp := .until 0, a := 0x0010, d := 1 } }

/-- A state in which a command is due for `IS`. -/
def due (w : CommandWord) : State := { State.reset with snd := { SenderUnit.reset with port := ⟨[⟨w, Buffer.empty, 0⟩], none⟩ } }

theorem test_ConfigurationNeverChanges : isNext (step running) = true := by decide

theorem test_StepRunsTheDecodedOperation_run : running.cfg.legal = true ∧ running.choose = some (.mu, running) ∧
    running.current .mu = some (.mw 0x0010 1) := by decide

theorem test_StepRunsTheDecodedOperation_issue :
    let s := due 0x8000000000000000#64
    s.choose = some (.is, s) ∧ s.current .is = none ∧
    s.dueCommand .is = some ⟨0x8000000000000000#64, Buffer.empty, 0⟩ ∧
    decodeFor .sender .w32 0x8000000000000000#64 = .ok .isend := by decide

theorem test_StepRunsTheDecodedOperation_refuse :
    let s := due 0x9000000000000000#64
    s.choose = some (.is, s) ∧ s.current .is = none ∧
    s.dueCommand .is = some ⟨0x9000000000000000#64, Buffer.empty, 0⟩ ∧
    decodeFor .sender .w32 0x9000000000000000#64 = .error .wrongUnit := by decide

theorem test_IllegalConfigurationIsRefused :
    (State.resetWith { Config.default with tBackoff := 0 }).cfg.legal = false ∧
    (State.resetWith { Config.default with addrWidth := 15 }).cfg.legal = false ∧
    (State.resetWith { Config.default with lenWidth := 3 }).cfg.legal = true := by decide

theorem test_TheChosenUnitCanMove : running.choose = some (.mu, running) ∧ State.reset.choose = none := by decide

theorem test_EveryOrderIsPossible : running.cfg.legal = true ∧ .mu ∈ running.units ∧ running.enabled .mu = true ∧
    .is ∈ running.units ∧ (due 0).dueCommand .is = some ⟨0, Buffer.empty, 0⟩ := by decide

/-- The hold of MW: nothing can run and the next event is at 10000. -/
def holding : State := { State.reset with
  mu := { MasterUnit.reset with phase := .mw .hold, susp := .until 10000, a := 0x0010 } }

theorem test_TimeAdvancesOnlyWhenNothingCanRun : holding.cfg.legal = true ∧
    (∀ u ∈ holding.units, holding.enabled u = false ∧ holding.dueCommand u = none) ∧
    (10000 ∈ holding.eventTimes ∧ holding.now < 10000 ∧ ∀ m ∈ holding.eventTimes, holding.now < m → 10000 ≤ m) ∧
    isNext (step holding) = true ∧ (after (step holding)).now ≠ holding.now := by decide

theorem test_WaitforIsExact : holding.Timely ∧ isNext (step holding) = true ∧
    (after (step holding)).suspOf .mu = some (.until 10000) ∧ (holding.current .mu).isSome = true ∧
    holding.suspOf .mu = some (.until 10000) ∧
    isNext (step (wordMu (.mw .start) false false)) = true ∧
    (after (step (wordMu (.mw .start) false false))).suspOf .mu = some (.until 5000) := by decide

/-- `MU` waits for a notice, a receiver for the edge, a slave-side unit for `ready`; time goes on to the end of the pulse. -/
def waiting (w : Notice) : State := { State.reset with
  mu := { MasterUnit.reset with phase := .mw .txnWaitAck, susp := .notice w }
  su := [{ SlaveUnit.reset with phase := .word .waitReady, susp := .level .ready true }]
  snd := { SenderUnit.reset with phase := .pulse, susp := .until 7 }
  rcv := [{ ReceiverUnit.reset with phase := .armed, susp := .edge }] }

/-- 40_execution_model.md R80: a step of another unit leaves a `waitfor` that has not ended. -/
theorem test_WaitforIsExact_other :
    let s := { running with snd := { SenderUnit.reset with phase := .pulse, susp := .until 9 } }
    isNext (step s) = true ∧ (s.current .is).isSome = true ∧ s.suspOf .is = some (.until 9) ∧
    (after (step s)).suspOf .is = some (.until 9) ∧ (after (step s)).now = 0 := by decide

theorem test_OnlyTheConditionEndsAWait : ∀ w, isNext (step (waiting w)) = true ∧
    ((waiting w).current .mu).isSome = true ∧ (waiting w).suspOf .mu = some (.notice w) ∧
    ((waiting w).current (.su 0)).isSome = true ∧ (waiting w).suspOf (.su 0) = some (.level .ready true) ∧
    ((waiting w).current (.ir 0)).isSome = true ∧ (waiting w).suspOf (.ir 0) = some .edge := by
  intro w; cases w <;> decide

/-- A receiver armed with nobody to send. -/
def stuck : State := rcvAt .armed .edge false

/-- MU signals `readyNotice` while `SU[0]` waits for it; `SU[0]` signals `ackNotice` while `MU` waits for it. -/
theorem test_OnlyTheConditionEndsAWait_notice :
    let s := { suAt txnConfig (.word .txnWaitReady) .capture .none Link.reset (.mw .txnSetup) false false with
      su := [{ SlaveUnit.reset with phase := .word .txnWaitReady, susp := .notice .readyNotice, a := 0x0010 }] }
    let r := suAt txnConfig (.word .txnAckRel) .capture .none Link.reset (.mw .txnWaitAck) false false
    let r' := { r with mu := { r.mu with susp := .notice .ackNotice } }
    (isNext (step s) = true ∧ s.suspOf (.su 0) = some (.notice .readyNotice) ∧ (s.current (.su 0)).isSome = true ∧
      (after (step s)).suspOf (.su 0) = some .none ∧ (after (step s)).mu.phase = .mw .txnWaitAck) ∧
    isNext (step r') = true ∧ r'.suspOf .mu = some (.notice .ackNotice) ∧ (r'.current .mu).isSome = true ∧
    (after (step r')).suspOf .mu = some .none ∧ (after (step r')).su.map SlaveUnit.phase = [.idle] := by decide

theorem test_FinishedOrStuck_finished : State.reset.cfg.legal = true ∧ State.reset.Quiescent ∧
    (∀ u ∈ State.reset.units, State.reset.Rests u) := by decide

theorem test_FinishedOrStuck_finishes : step State.reset = .fault .finished := rfl

theorem test_FinishedOrStuck_stuck : stuck.Quiescent ∧ ¬ (∀ u ∈ stuck.units, stuck.Rests u) := by decide

/-! ## Issue -/

theorem test_IssueLatchesWordOperands : (wordMu .idle false false).Idle .mu ∧
    WellFormed (wordMu .idle false false).cfg.dataWidth (.mw 0xFFFF 0xFFFFFFFF) = true ∧
    (suAt Config.default .idle .capture .none Link.reset .idle false false).Idle (.su 0) ∧
    (suAt Config.default .idle .capture .none Link.reset .idle false false).su[0]?.isSome = true := by decide

theorem test_IssueLatchesLinkOperands :
    (handing (wordMu .idle false false)).Idle .mu ∧
    (handing (suAt Config.default .idle .capture .none Link.reset .idle false false)).Idle (.su 0) ∧
    (6 : Len).toNat ≤ (handing (wordMu .idle false false)).handed.size ∧
    (0xFFFFFFFF : Len).toNat < 2 ^ (wordMu .idle false false).cfg.lenWidth := by decide

/-- The host's buffer has six bytes and the unit is idle, in a build with `LEN_WIDTH` = 2. -/
def narrow (s : State) : State := handing { s with cfg := { s.cfg with lenWidth := 2 } }

theorem test_IssueLatchesLinkOperands_free :
    (narrow (wordMu .idle false false)).Idle .mu ∧
    (narrow (suAt Config.default .idle .capture .none Link.reset .idle false false)).Idle (.su 0) ∧
    2 ^ (narrow (wordMu .idle false false)).cfg.lenWidth ≤ (4 : Len).toNat ∧
    (4 : Len).toNat ≤ (narrow (wordMu .idle false false)).handed.size := by decide

/-- 00_scope.md R8: with `LEN_WIDTH` = 2 a length of 3 is latched; one of 4 is not refused, and draws a free value. -/
theorem test_lenWidth :
    (after (exec (.lmw 0x0010 3) (narrow (wordMu .idle false false)))).mu.link.len = 3 ∧
    isNext (exec (.lmw 0x0010 4) (narrow (wordMu .idle false false))) = true ∧
    (after (exec (.lmw 0x0010 4) (narrow (wordMu .idle false false)))).drawn = 1 := by decide

theorem test_ShortBufferIsRefused : (handing (wordMu .idle false false)).handed.size < (7 : Len).toNat ∧
    (handing (wordMu .idle false false)).Idle .mu := by decide

theorem test_NoMoveForABusyOrWrongUnit :
    (wordMu (.mw .hold) true true).current (wordMu (.mw .hold) true true).sel = some (.mw 0x0010 0x41424344) ∧
    Instr.acceptedBy (.mr 0x0010) = (wordMu (.mw .hold) true true).sel.kind ∧
    holding.current holding.sel = some (.mw 0x0010 0) ∧ holding.enabled holding.sel = false ∧
    Instr.acceptedBy .isend ≠ holding.sel.kind := by decide

/-! ## Word-level segments -/

theorem test_MasterWriteUnderPin :
    ∀ p ∈ [MwPoint.start, .setup, .waitAck, .hold, .waitRel], ∀ ready ack : Bool,
      (wordMu (.mw p) ready ack).cfg.variant = .pin ∧ (wordMu (.mw p) ready ack).Runs .mu (.mw 0x0010 0x41424344) ∧
      (wordMu (.mw p) ready ack).mu.phase = .mw p ∧ (wordMu (.mw p) ready ack).bus.ack = ack := by decide

theorem test_MasterReadUnderPin :
    ∀ p ∈ [MrPoint.start, .setup, .waitAck, .hold, .waitRel], ∀ ready ack : Bool,
      (wordMu (.mr p) ready ack).cfg.variant = .pin ∧ (wordMu (.mr p) ready ack).Runs .mu (.mr 0x0010) ∧
      (wordMu (.mr p) ready ack).mu.phase = .mr p ∧ (wordMu (.mr p) ready ack).bus.ack = ack ∧
      (wordMu (.mr p) ready ack).bus.data = some 0x41424344 := by decide

theorem test_SlaveMatchUnderPin_waits : ∀ p ∈ [SlavePoint.start, .waitReady, .backoff],
    (wordSu p .capture .idle false false).cfg.variant = .pin ∧
    (wordSu p .capture .idle false false).su[0]?.map SlaveUnit.phase = some (.word p) ∧
    (wordSu p .capture .idle false false).Runs (.su 0) (.sr 0x0010) ∧
    (wordSu p .capture .idle false false).bus.ready = false := by decide

theorem test_SlaveMatchUnderPin_matches : ∀ p ∈ [SlavePoint.start, .waitReady, .backoff],
    let s := wordSu p .capture (.mw .waitAck) true false
    let r := wordSu p .drive (.mr .waitAck) true false
    (s.Runs (.su 0) (.sr 0x0010) ∧ s.bus = bus true false ∧ s.served = false ∧ s.mu.pairs = some .capture) ∧
    r.Runs (.su 0) (.sw 0x0010 0x41424344) ∧ r.bus = bus true false ∧ r.served = false ∧ r.mu.pairs = some .drive := by
  decide

theorem test_SlaveAcknowledgeUnderPin : ∀ p ∈ [SlavePoint.service, .waitRel, .ackRel], ∀ ready : Bool,
    (wordSu p .capture (.mw .waitAck) ready false).Runs (.su 0) (.sr 0x0010) ∧
    (wordSu p .drive (.mr .waitAck) ready false).Runs (.su 0) (.sw 0x0010 0x41424344) := by decide

/-- SR at another address than the one on the lines. -/
def mismatched (p : SlavePoint) : State :=
  { wordSu p .capture (.mw .waitAck) true false with bus := ⟨true, false, some 0x0011, some 1⟩ }

theorem test_MismatchIsARetryAndNothingElse : ∀ p ∈ [SlavePoint.start, .waitReady, .backoff],
    (mismatched p).cfg.variant = .pin ∧ (mismatched p).Runs (.su 0) (.sr 0x0010) ∧ (mismatched p).bus.ready = true ∧
    (mismatched p).bus.address = some 0x0011 ∧ (mismatched p).su.map SlaveUnit.a = [0x0010] := by decide

/-- SR serves and `ack` is about to rise. -/
def serving : State :=
  let s := wordSu .service .capture (.mw .waitAck) true false
  { s with mu := { s.mu with susp := .level .ack true }, served := true, agenda := [.su 0] }

theorem test_MismatchIsARetryAndNothingElse_ack : serving.Handshake ∧ isNext (step serving) = true ∧
    serving.bus.ack = false ∧ (after (step serving)).bus.ack = true ∧
    (after (step serving)).su.map SlaveUnit.phase = [.word .waitRel] := by decide

theorem test_IllPairedTransfersHaveNoMeaning_pin : ∀ p ∈ [SlavePoint.start, .waitReady, .backoff], ∀ v : Bool,
    let s := { wordSu p .capture (.mr .waitAck) true false with served := v }
    let r := { wordSu p .drive (.mw .waitAck) true false with served := v }
    (s.Runs (.su 0) (.sr 0x0010) ∧ s.bus.address = some 0x0010 ∧ s.bus.data.isSome = true ∧ s.served = v ∧
      s.mu.pairs = some .drive) ∧
    r.Runs (.su 0) (.sw 0x0010 0x41424344) ∧ r.bus.address = some 0x0010 ∧ r.served = v ∧
    r.mu.pairs = some .capture := by decide

theorem test_IllPairedTransfersHaveNoMeaning_pin_unwritten : ∀ p ∈ [SlavePoint.start, .waitReady, .backoff],
    let s := wordSu p .capture (.mw .waitAck) true false
    { s with bus := ⟨true, false, some 0x0010, none⟩ }.Runs (.su 0) (.sr 0x0010) ∧
    { s with bus := ⟨true, false, none, none⟩ }.Runs (.su 0) (.sr 0x0010) := by decide

theorem test_IllPairedTransfersHaveNoMeaning_txn : ∀ v : Bool,
    let s := { suAt txnConfig (.word .txnWaitReady) .capture .none Link.reset (.mr .txnWaitAck) false false with served := v }
    let r := { suAt txnConfig (.word .txnWaitReady) .drive .none Link.reset (.mw .txnWaitAck) false false with served := v }
    (s.Runs (.su 0) (.sr 0x0010) ∧ s.txn = ⟨some 0x0010, some 0x41424344⟩ ∧ s.served = v ∧ s.mu.pairs = some .drive) ∧
    (r.Runs (.su 0) (.sw 0x0010 0x41424344) ∧ r.txn.pendingAddress = some 0x0010 ∧ r.served = v ∧
      r.mu.pairs = some .capture) ∧
    { s with txn := ⟨some 0x0010, none⟩ }.Runs (.su 0) (.sr 0x0010) ∧
    { s with txn := ⟨none, none⟩ }.Runs (.su 0) (.sr 0x0010) := by decide

theorem test_IllPairedTransfersHaveNoMeaning_master :
    let s := { wordMu (.mr .setup) false true with bus := ⟨false, true, some 0x0010, none⟩ }
    let r := { wordMu (.mr .waitAck) true true with bus := ⟨true, true, some 0x0010, none⟩ }
    let x := { muAt txnConfig (.mr .txnWaitAck) .lmr (linkAt 6 0 0) false false with txn := ⟨some 0x0010, none⟩ }
    s.Runs .mu (.mr 0x0010) ∧ r.Runs .mu (.mr 0x0010) ∧ x.Runs .mu (.lmr 0x0010 6) := by decide

/-- 41_handshake_pin.md R107, 70_reset_and_hazards.md R172: a second SR issued late finds `ready` = 1 at once. -/
theorem test_late_second_match :
    exec (.sr 0x0010) { wordSu .start .capture (.mw .waitAck) true false with served := true } = .refused .twoMatched := rfl

/-- 93_implementation_defined.md U3: under `TXN` MR samples an undriven `pendingData`. -/
theorem test_txn_unwritten : exec (.mr 0x0010)
    { muAt txnConfig (.mr .txnWaitAck) .none Link.reset false false with txn := ⟨some 0x0010, none⟩ } =
    .fault (.unwritten .pendingData) := rfl

theorem test_MasterWriteUnderTxn : ∀ p ∈ [MwPoint.start, .txnSetup, .txnWaitAck, .txnHold],
    (muAt txnConfig (.mw p) .none Link.reset false false).cfg.variant = .txn ∧
    (muAt txnConfig (.mw p) .none Link.reset false false).Runs .mu (.mw 0x0010 0x41424344) := by decide

theorem test_MasterReadUnderTxn : ∀ p ∈ [MrPoint.start, .txnSetup, .txnWaitAck, .txnHold],
    let s := muAt txnConfig (.mr p) .none Link.reset false false
    s.cfg.variant = .txn ∧ s.Runs .mu (.mr 0x0010) ∧ s.txn.pendingData = some 0x41424344 := by decide

theorem test_SlaveUnderTxn : ∀ p ∈ [SlavePoint.start, .txnWaitReady, .txnService, .txnAckRel],
    let s := suAt txnConfig (.word p) .capture .none Link.reset (.mw .txnWaitAck) false false
    let r := suAt txnConfig (.word p) .drive .none Link.reset (.mr .txnWaitAck) false false
    let x := { s with txn := ⟨some 0x0011, none⟩ }
    (s.cfg.variant = .txn ∧ s.Runs (.su 0) (.sr 0x0010) ∧ s.txn = ⟨some 0x0010, some 0x41424344⟩ ∧ s.served = false ∧
      s.mu.pairs = some .capture) ∧
    (r.Runs (.su 0) (.sw 0x0010 0x41424344) ∧ r.txn.pendingAddress = some 0x0010 ∧ r.served = false ∧
      r.mu.pairs = some .drive) ∧
    x.Runs (.su 0) (.sr 0x0010) ∧ x.txn.pendingAddress = some 0x0011 := by decide

theorem test_AWakeEndsItsWaitsAndNothingElse : State.reset.waiters (.notice .readyNotice) = [] ∧
    (waiting .ackNotice).waiters (.notice .ackNotice) = [.mu] ∧ (waiting .ackNotice).waiters .edge = [.ir 0] := by decide

/-- 40_execution_model.md R84: a notice that wakes LSR in the middle of its buffer leaves the buffer and the registers. -/
theorem test_wake_keeps :
    let s := suAt txnConfig (.word .txnWaitReady) .capture .lsr (linkAt 6 4 0) (.mw .txnSetup) false false
    let r := { s with su := s.su.map (fun (u : SlaveUnit) => { u with susp := .notice .readyNotice }) }
    (r.notify .readyNotice).su = s.su ∧ (r.notify .readyNotice).bus = s.bus := by decide

/-! ## Link-level segments -/

theorem test_ACallRunsTheWordLevelOperation :
    let s := muAt Config.default (.mw .setup) .lmw (linkAt 6 4 4) false false
    let r := muAt Config.default (.mr .setup) .lmr (linkAt 6 4 0) false false
    (s.Runs .mu (.lmw 0x0010 6) ∧ s.mu.phase = .mw .setup ∧
      isNext (exec (.mw s.mu.a s.mu.d) { s with mu := { s.mu with lop := .none } }) = true ∧
      (after (exec (.mw s.mu.a s.mu.d) { s with mu := { s.mu with lop := .none } })).mu.phase ≠ .idle) ∧
    r.Runs .mu (.lmr 0x0010 6) ∧ r.mu.phase = .mr .setup ∧
      isNext (exec (.mr r.mu.a) { r with mu := { r.mu with lop := .none } }) = true ∧
      (after (exec (.mr r.mu.a) { r with mu := { r.mu with lop := .none } })).mu.phase ≠ .idle := by decide

theorem test_ACallRunsTheWordLevelOperation_slave :
    let s := suAt Config.default (.word .service) .drive .lsw (linkAt 6 4 4) (.mr .waitAck) true false
    s.Runs (.su 0) (.lsw 0x0010 6) ∧
    s.su.map (fun u => ({ u with lop := .none } : SlaveUnit).current) = [some (.sw 0x0010 0x41424344)] := by decide

theorem test_MasterBufferWriteSegments :
    let s := muAt Config.default .lmwStart .lmw (linkAt 6 0 0) false false
    let r := muAt Config.default (.mw .waitRel) .lmw (linkAt 6 4 4) false false
    let x := muAt txnConfig (.mw .txnHold) .lmw (linkAt 6 6 2) false false
    (s.Runs .mu (.lmw 0x0010 6) ∧ (s.mu.link.writeEntry .w32).2 = true) ∧
    (r.Runs .mu (.lmw 0x0010 6) ∧ r.bus.ack = false ∧ (r.mu.link.writeReturn .w32).2 = true) ∧
    x.Runs .mu (.lmw 0x0010 6) ∧ (x.mu.link.writeReturn .w32).2 = false := by decide

theorem test_MasterBufferReadSegments :
    let s := muAt Config.default .lmrStart .lmr (linkAt 6 0 0) false false
    let r := muAt Config.default (.mr .waitRel) .lmr (linkAt 6 0 0) false false
    let x := muAt txnConfig (.mr .txnHold) .lmr (linkAt 6 4 0) false false
    (s.Runs .mu (.lmr 0x0010 6) ∧ (s.mu.link.readEntry .w32).2 = true) ∧
    (r.Runs .mu (.lmr 0x0010 6) ∧ r.bus.ack = false ∧ (r.mu.link.readReturn .w32 r.mu.q).2 = true) ∧
    x.Runs .mu (.lmr 0x0010 6) ∧ (x.mu.link.readReturn .w32 x.mu.q).2 = false := by decide

theorem test_SlaveBufferWriteSegments :
    let s := suAt Config.default .lswStart .drive .lsw (linkAt 6 0 0) .idle false false
    let r := suAt Config.default (.word .ackRel) .drive .lsw (linkAt 6 4 4) (.mr .waitRel) false true
    let x := suAt txnConfig (.word .txnAckRel) .drive .lsw (linkAt 6 6 2) (.mr .txnWaitAck) false false
    (s.Runs (.su 0) (.lsw 0x0010 6) ∧ ((linkAt 6 0 0).writeEntry .w32).2 = true) ∧
    (r.Runs (.su 0) (.lsw 0x0010 6) ∧ r.bus.ready = false ∧ ((linkAt 6 4 4).writeReturn .w32).2 = true) ∧
    x.Runs (.su 0) (.lsw 0x0010 6) ∧ ((linkAt 6 6 2).writeReturn .w32).2 = false := by decide

theorem test_SlaveBufferReadSegments :
    let s := suAt Config.default .lsrStart .capture .lsr (linkAt 6 0 0) .idle false false
    let r := suAt Config.default (.word .ackRel) .capture .lsr (linkAt 6 0 0) (.mw .waitRel) false true
    let x := suAt txnConfig (.word .txnAckRel) .capture .lsr (linkAt 6 4 0) (.mw .txnWaitAck) false false
    (s.Runs (.su 0) (.lsr 0x0010 6) ∧ ((linkAt 6 0 0).readEntry .w32).2 = true) ∧
    (r.Runs (.su 0) (.lsr 0x0010 6) ∧ r.bus.ready = false ∧ ((linkAt 6 0 0).readReturn .w32 0x41424344).2 = true) ∧
    x.Runs (.su 0) (.lsr 0x0010 6) ∧ ((linkAt 6 4 0).readReturn .w32 0x41424344).2 = false := by decide

theorem test_CountLawAndPackingLaw : (linkAt 6 0 0).calls .w32 = 2 ∧ (linkAt 6 0 0).buf.wf = true ∧
    (linkAt 6 0 0).len.toNat ≤ (linkAt 6 0 0).buf.size ∧ (linkAt 0 0 0).calls .w32 = 0 := by decide

theorem test_LengthZeroCompletesAtOnce :
    (muAt Config.default .lmwStart .lmw (linkAt 0 3 1) false false).Runs .mu (.lmw 0x0010 0) ∧
    (muAt Config.default .lmrStart .lmr (linkAt 0 3 1) false false).Runs .mu (.lmr 0x0010 0) ∧
    (suAt Config.default .lswStart .drive .lsw (linkAt 0 3 1) .idle false false).Runs (.su 0) (.lsw 0x0010 0) ∧
    (suAt Config.default .lsrStart .capture .lsr (linkAt 0 3 1) .idle false false).Runs (.su 0) (.lsr 0x0010 0) := by decide

theorem test_TheDocumentsBufferWrites_call :
    (muAt Config.default .lmwStart .lmw (linkAt 4 0 0) false false).Runs .mu (.lmw 0x0010 4) ∧
    (muAt Config.default .lmwStart .lmw (linkAt 2 0 0) false false).Runs .mu (.lmw 0x0010 2) := by decide

theorem test_TheDocumentsBufferWrites_return :
    (muAt Config.default (.mw .waitRel) .lmw ((linkAt 4 0 0).writeCall .w32 0).1 false false).Runs .mu
      (.lmw 0x0010 4) ∧
    (muAt Config.default (.mw .waitRel) .lmw ((linkAt 2 0 0).writeCall .w32 0).1 false false).Runs .mu
      (.lmw 0x0010 2) := by decide

theorem test_TheDocumentsBufferWrites_bytes :
    (linkAt 4 0 0).buf.toBytes 4 = [0x41, 0x42, 0x43, 0x44] ∧
    ((linkAt 4 0 0).writeCall .w32 0).1.buf = (linkAt 4 0 0).buf ∧
    ((linkAt 2 0 0).writeCall .w32 0).1.buf = (linkAt 2 0 0).buf := by decide

theorem test_BufferReadAfterWrite : (linkAt 6 0 0).buf.wf = true ∧ (Buffer.zeros 6).wf = true ∧
    (Buffer.zeros 6).size = (linkAt 6 0 0).buf.size := by decide

/-! ## The interrupt -/

theorem test_SendIsAPulse : (sndAt .idle false).Idle .is ∧ (sndAt .start false).Runs .is .isend ∧
    (sndAt .start true).Runs .is .isend ∧ (sndAt .pulse true).Runs .is .isend ∧
    (sndAt .start false).intr = false ∧ stuck.rcv[0]? = some { ReceiverUnit.reset with phase := .armed, susp := .edge } := by
  decide

theorem test_ReceiveWaitsForAnEdge : (rcvAt .idle .none true).Idle (.ir 0) ∧
    (rcvAt .start .none true).Runs (.ir 0) .irecv ∧ (rcvAt .armed .none true).Runs (.ir 0) .irecv ∧
    (rcvAt .start .none true).rcv[0]?.map ReceiverUnit.phase = some .start := by decide

theorem test_AnUnseenPulseLeavesNoTrace : (sndAt .start false).waiters .edge = [] ∧
    isNext (exec .isend (sndAt .start false)) = true := by decide

theorem test_ArmingInMidPulseWaitsForTheNextPulse :
    let s := { waiting .ackNotice with intr := true }
    s.rcv = [{ ReceiverUnit.reset with phase := .armed, susp := .edge }] ∧ s.intr = true ∧ isNext (step s) = true := by
  decide

/-- A receiver in the middle of a pulse of a synchronous build, the next sampling point at 20. -/
def clocked : State :=
  { rcvAt .armed .edge true with cfg := { Config.default with clocked := true, tTick := 10 }, now := 15 }

theorem test_TheClockedDetectorSeesOnlyEdges : clocked.cfg.clocked = true ∧ clocked.now ≤ 2 * clocked.cfg.tTick ∧
    2 * clocked.cfg.tTick < 21 ∧ 1 ≤ clocked.cfg.tTick ∧ (clocked.advance 21).rcv.length = 2 :=
  ⟨rfl, by decide, by decide, by decide, rfl⟩

/-- 44_interrupt.md R144: the bit takes the line's value at the sampling point 20, and keeps it up to there. -/
theorem test_clocked_samples : (clocked.advance 21).rcv.map ReceiverUnit.prev = [true, true] ∧
    (clocked.advance 20).rcv.map ReceiverUnit.prev = [false, false] := ⟨rfl, rfl⟩

/-! ## Frames -/

theorem test_MasterWordFrame : isNext (exec (.mw 0x0010 0x41424344) (wordMu (.mw .setup) false false)) = true ∧
    isNext (exec (.mr 0x0010) (wordMu (.mr .waitAck) true true)) = true ∧
    isNext (exec (.mw 0x0010 0x41424344) (muAt txnConfig (.mw .txnSetup) .none Link.reset false false)) = true := by decide

theorem test_SlaveWordFrame :
    isNext (exec (.sr 0x0010) (wordSu .waitReady .capture (.mw .waitAck) true false)) = true ∧
    isNext (exec (.sw 0x0010 0x41424344) (wordSu .waitReady .drive (.mr .waitAck) true false)) = true ∧
    isNext (exec (.sr 0x0010)
      (suAt txnConfig (.word .txnAckRel) .capture .none Link.reset (.mw .txnWaitAck) false false)) = true := by decide

theorem test_MasterLinkFrame :
    isNext (exec (.lmw 0x0010 6) (muAt Config.default (.mw .waitRel) .lmw (linkAt 6 4 4) false false)) = true ∧
    isNext (exec (.lmr 0x0010 6) (muAt Config.default (.mr .waitRel) .lmr (linkAt 6 0 0) false false)) = true ∧
    (linkAt 6 0 0).ReadOk := by decide

/-- The hold's end of LMR under the handshake: `ready` falls, the call goes on. -/
theorem test_MasterLinkFrame_hold :
    let s := muAt Config.default (.mr .hold) .lmr (linkAt 6 0 0) true true
    isNext (exec (.lmr 0x0010 6) s) = true ∧ s.bus.ack = true ∧
    (after (exec (.lmr 0x0010 6) s)).mu.phase = .mr .waitRel := by decide

theorem test_SlaveLinkFrame :
    isNext (exec (.lsw 0x0010 6)
      (suAt Config.default (.word .ackRel) .drive .lsw (linkAt 6 4 4) (.mr .waitRel) false true)) = true ∧
    isNext (exec (.lsr 0x0010 6)
      (suAt Config.default (.word .ackRel) .capture .lsr (linkAt 6 0 0) (.mw .waitRel) false true)) = true ∧
    isNext (exec (.lsr 0x0010 6)
      (suAt txnConfig (.word .txnAckRel) .capture .lsr (linkAt 6 0 0) (.mw .txnWaitAck) false false)) = true ∧
    (∀ u ∈ (suAt Config.default (.word .ackRel) .capture .lsr (linkAt 6 0 0) (.mw .waitRel) false true).su,
      u.LopFits ∧ u.link.ReadOk) := by decide

theorem test_InterruptFrame : isNext (exec .isend (sndAt .start false)) = true ∧
    isNext (exec .irecv (rcvAt .start .none false)) = true := by decide

/-! ## Invariants and whole transfers -/

theorem test_EveryStepKeepsTheWordsInWidth : serving.WidthsFit ∧ isNext (step serving) = true := by decide

theorem test_EveryStepKeepsTheTimers : serving.Timely ∧ isNext (step serving) = true := by decide

/-- LMR about to unpack its second word. -/
def unpacking : State := muAt Config.default (.mr .waitRel) .lmr (linkAt 6 4 0) false false

theorem test_EveryStepKeepsTheLinkRegistersInRange : unpacking.LinksFit ∧ isNext (step unpacking) = true := by
  refine ⟨⟨?_, ⟨?_, ?_, ?_⟩, ?_, ?_, ?_⟩, ?_⟩ <;> decide

theorem test_EveryStepKeepsTheHandshake : serving.Handshake ∧ isNext (step serving) = true := by decide

theorem test_EveryStepKeepsThePulse : { waiting .ackNotice with intr := true }.PulseShown ∧
    isNext (step { waiting .ackNotice with intr := true }) = true := by decide

/-- SR at the end of its release, its MW waiting for `ack` to fall. -/
def releasing (dir : SlaveDir) (m : MasterPhase) : State :=
  let s := wordSu .ackRel dir m false true
  { s with mu := { s.mu with q := 0x41424344 }, served := true }

theorem test_CompletionDeliversTheWord_write : (releasing .capture (.mw .waitRel)).Handshake ∧
    (releasing .capture (.mw .waitRel)).Runs (.su 0) (.sr 0x0010) := by decide

theorem test_CompletionDeliversTheWord_read : (releasing .drive (.mr .waitRel)).Handshake ∧
    (releasing .drive (.mr .waitRel)).Runs (.su 0) (.sw 0x0010 0x41424344) := by decide

/-- One slave-side unit waits; `MU` is about to start. -/
def paired (c : Config) (m : MasterPhase) (p : SlavePoint) (dir : SlaveDir) (w : Susp) : State :=
  let s := suAt c (.word p) dir .none Link.reset m false false
  { s with su := s.su.map (fun u => { u with susp := w }) }

/-- What the three timeline statements ask of the state, in one Boolean each. -/
def resting (s : State) : Bool :=
  s.cfg.legal && s.mu.susp == .none && s.mu.port.todo.isEmpty && !s.bus.ready && !s.bus.ack &&
  s.snd.phase == .idle && s.snd.port.todo.isEmpty &&
  s.rcv.all (fun r => r.phase == .idle && r.port.todo.isEmpty) && s.su.all (fun u => u.port.todo.isEmpty)

theorem test_TimelineOfAWrite :
    let s := paired Config.default (.mw .start) .waitReady .capture (.level .ready true)
    s.cfg.variant = .pin ∧ s.current .mu = some (.mw 0x0010 0x41424344) ∧ s.Rests .is ∧ resting s = true ∧
    s.su.map (fun u => (u.current, u.phase, u.susp)) = [(some (.sr 0x0010), .word .waitReady, .level .ready true)] := by
  decide

theorem test_TimelineOfARead :
    let s := paired Config.default (.mr .start) .waitReady .drive (.level .ready true)
    s.cfg.variant = .pin ∧ s.current .mu = some (.mr 0x0010) ∧ s.Rests .is ∧ resting s = true ∧
    s.su.map (fun u => (u.current, u.phase, u.susp)) =
      [(some (.sw 0x0010 0x41424344), .word .waitReady, .level .ready true)] := by decide

theorem test_TimelinesUnderTxn_write :
    let s := paired txnConfig (.mw .start) .txnWaitReady .capture (.notice .readyNotice)
    s.cfg.variant = .txn ∧ s.current .mu = some (.mw 0x0010 0x41424344) ∧ s.Rests .is ∧ resting s = true ∧
    s.su.map (fun u => (u.current, u.phase, u.susp)) =
      [(some (.sr 0x0010), .word .txnWaitReady, .notice .readyNotice)] := by decide

theorem test_TimelinesUnderTxn_read :
    let s := paired txnConfig (.mr .start) .txnWaitReady .drive (.notice .readyNotice)
    s.cfg.variant = .txn ∧ s.current .mu = some (.mr 0x0010) ∧ s.Rests .is ∧ resting s = true ∧
    s.su.map (fun u => (u.current, u.phase, u.susp)) =
      [(some (.sw 0x0010 0x41424344), .word .txnWaitReady, .notice .readyNotice)] := by decide

end Sys2Proof.Tests
end

section
/-! What the operations leave as it is. No operation changes the configuration, the time or the number of units (10_state.md
R19, R31), and every data word one writes is a value of `DATA_WIDTH` bits or a word the state held before. Both are said at
once, as the predicate `BoundedBy`, which every update of the state, every segment and so every operation keeps. -/

namespace Sys2Proof.Machine

variable {s t : State}

/-! ## Link registers: every value of `ACC` is a truncation, zero or the value before -/

theorem fits_truncWord (dw : DataWidth) (w : Word) : dw.fits (truncWord dw w) = true := by
  simp only [DataWidth.fits, truncWord, BitVec.toNat_setWidth, decide_eq_true_eq]
  exact (Nat.mod_le _ _).trans_lt (Nat.mod_lt _ (Nat.two_pow_pos _))

theorem fits_zero (dw : DataWidth) : dw.fits 0 = true := by
  cases dw <;> rfl

section
variable {dw : DataWidth} {W : Word → Prop} (hW : ∀ w, dw.fits w = true → W w)
include hW

theorem Link.packLoop_acc (n : Nat) {l : Link} (h : W l.acc) : W (Link.packLoop dw n l).1.acc := by
  induction n generalizing l with
  | zero => exact h
  | succ n ih =>
    have hb : W (l.packByte dw).acc := hW _ (fits_truncWord _ _)
    simp only [Link.packLoop]
    split
    · exact hb
    · exact ih hb

theorem Link.nextWrite_acc {l : Link} (h : W l.acc) : W (l.nextWrite dw).1.acc := by
  simp only [Link.nextWrite]
  split
  · exact Link.packLoop_acc hW _ h
  · split
    · exact hW _ (fits_truncWord _ _)
    · exact Link.packLoop_acc hW _ h

theorem Link.writeEntry_acc (l : Link) : W (l.writeEntry dw).1.acc :=
  Link.nextWrite_acc hW (hW _ (fits_zero dw))

theorem Link.writeReturn_acc {l : Link} (h : W l.acc) : W (l.writeReturn dw).1.acc := by
  unfold Link.writeReturn
  split
  · exact Link.nextWrite_acc hW (hW _ (fits_zero dw))
  · exact h

theorem Link.unpackLoop_acc (n : Nat) {l : Link} (h : W l.acc) : W (Link.unpackLoop dw n l).1.acc := by
  induction n generalizing l with
  | zero => exact h
  | succ n ih =>
    unfold Link.unpackLoop
    split
    · exact h
    · exact ih (hW _ (fits_truncWord _ _))

theorem Link.readEntry_acc {l : Link} (h : W l.acc) : W (l.readEntry dw).1.acc :=
  Link.unpackLoop_acc hW _ h

theorem Link.readReturn_acc (q : Word) (l : Link) : W (l.readReturn dw q).1.acc :=
  Link.unpackLoop_acc hW _ (hW _ (fits_truncWord _ _))

end

/-! ## The predicate -/

/-- What no operation changes: the configuration, `now`, and how many slave-side units and receivers there are. -/
def State.shape (s : State) : Config × Nat × Nat × Nat := (s.cfg, s.now, s.su.length, s.rcv.length)

theorem State.shape_eq_iff :
    t.shape = s.shape ↔
      t.cfg = s.cfg ∧ t.now = s.now ∧ t.su.length = s.su.length ∧ t.rcv.length = s.rcv.length := by
  simp [State.shape]

/-- Every word register of `MU` has the property `W`. -/
def MasterUnit.Words (W : Word → Prop) (u : MasterUnit) : Prop := W u.d ∧ W u.q ∧ W u.link.acc

/-- Every word register of a slave-side unit has the property `W`. -/
def SlaveUnit.Words (W : Word → Prop) (u : SlaveUnit) : Prop := W u.d ∧ W u.q ∧ W u.link.acc

/-- The state has the shape of the state `x`, and every data word it holds has the property `W`, which all values of
`DATA_WIDTH` bits have. -/
def State.BoundedBy (s x : State) (W : Word → Prop) : Prop :=
  s.shape = x.shape ∧ (∀ w, s.cfg.dataWidth.fits w = true → W w) ∧
  (∀ w, s.bus.data = some w → W w) ∧ (∀ w, s.txn.pendingData = some w → W w) ∧
  s.mu.Words W ∧ ∀ u ∈ s.su, u.Words W

section
variable {W : Word → Prop}

theorem MasterUnit.Words.d {u : MasterUnit} (h : u.Words W) : W u.d := h.1

theorem MasterUnit.Words.q {u : MasterUnit} (h : u.Words W) : W u.q := h.2.1

theorem MasterUnit.Words.acc {u : MasterUnit} (h : u.Words W) : W u.link.acc := h.2.2

theorem SlaveUnit.Words.d {u : SlaveUnit} (h : u.Words W) : W u.d := h.1

theorem SlaveUnit.Words.q {u : SlaveUnit} (h : u.Words W) : W u.q := h.2.1

theorem SlaveUnit.Words.acc {u : SlaveUnit} (h : u.Words W) : W u.link.acc := h.2.2

end

namespace State.BoundedBy

variable {x : State} {W : Word → Prop}

theorem shape (h : s.BoundedBy x W) : s.shape = x.shape := by
  obtain ⟨hx, -⟩ := h
  exact hx

theorem fits (h : s.BoundedBy x W) : ∀ w, s.cfg.dataWidth.fits w = true → W w := by
  obtain ⟨-, hW, -⟩ := h
  exact hW

theorem busData {w : Word} (h : s.BoundedBy x W) (hw : s.bus.data = some w) : W w := by
  obtain ⟨-, -, hb, -⟩ := h
  exact hb w hw

theorem pendingData {w : Word} (h : s.BoundedBy x W) (hw : s.txn.pendingData = some w) : W w := by
  obtain ⟨-, -, -, hp, -⟩ := h
  exact hp w hw

theorem mu (h : s.BoundedBy x W) : s.mu.Words W := by
  obtain ⟨-, -, -, -, hm, -⟩ := h
  exact hm

theorem su {k : Nat} {u : SlaveUnit} (h : s.BoundedBy x W) (hu : s.su[k]? = some u) : u.Words W := by
  obtain ⟨-, -, -, -, -, hs⟩ := h
  exact hs u (List.mem_of_getElem? hu)

/-! ## The rules: one per update of the state that writes a word or a list of units

An update that writes neither keeps the predicate by definition, and so does one of a unit's `PHASE`, `SUSP` or port. -/

theorem withMu {u : MasterUnit} (h : s.BoundedBy x W) (hu : u.Words W) : (s.withMu u).BoundedBy x W := by
  obtain ⟨hx, hW, hb, hp, -, hs⟩ := h
  exact ⟨hx, hW, hb, hp, hu, hs⟩

theorem withSu {k : Nat} {u : SlaveUnit} (h : s.BoundedBy x W) (hu : u.Words W) : (s.withSu k u).BoundedBy x W := by
  obtain ⟨hx, hW, hb, hp, hm, hs⟩ := h
  refine ⟨by simpa [State.shape] using hx, hW, hb, hp, hm, fun v hv => ?_⟩
  rcases List.mem_or_eq_of_mem_set hv with hv | rfl
  · exact hs v hv
  · exact hu

theorem withRcv {j : Nat} {u : ReceiverUnit} (h : s.BoundedBy x W) : (s.withRcv j u).BoundedBy x W := by
  obtain ⟨hx, hrest⟩ := h
  exact ⟨by simpa [State.shape] using hx, hrest⟩

theorem driveData {d : Word} (h : s.BoundedBy x W) (hd : W d) : (s.driveData d).BoundedBy x W := by
  obtain ⟨hx, hW, -, hp, hm, hs⟩ := h
  exact ⟨hx, hW, by simpa using hd, hp, hm, hs⟩

theorem drivePendingData {d : Word} (h : s.BoundedBy x W) (hd : W d) : (s.drivePendingData d).BoundedBy x W := by
  obtain ⟨hx, hW, hb, -, hm, hs⟩ := h
  exact ⟨hx, hW, hb, by simpa using hd, hm, hs⟩

theorem wake (w : Susp) (h : s.BoundedBy x W) : (s.wake w).BoundedBy x W := by
  obtain ⟨hx, hW, hb, hp, hm, hs⟩ := h
  refine ⟨by simpa [State.shape] using hx, hW, hb, hp, hm, fun v hv => ?_⟩
  obtain ⟨u, hu, rfl⟩ := List.mem_map.mp hv
  exact hs u hu

theorem driveIntr (v : Bool) (h : s.BoundedBy x W) : (s.driveIntr v).BoundedBy x W := by
  unfold State.driveIntr
  split
  · exact wake .edge (s := { s with intr := true }) h
  · exact h

theorem popCommand (u : UnitId) (h : s.BoundedBy x W) : (s.popCommand u).BoundedBy x W := by
  unfold State.popCommand
  split
  case h_1 => exact h
  case h_2 k =>
    split
    case h_1 v hv =>
      have hw := h.su hv
      exact h.withSu hw
    case h_2 => exact h
  case h_3 => exact h
  case h_4 j =>
    split
    · exact h.withRcv
    · exact h

/-! ## `MU` -/

theorem mwBegin (h : s.BoundedBy x W) : (mwBegin s).BoundedBy x W := by
  cases hv : s.cfg.variant with
  | pin => rw [mwBegin_pin hv]; exact driveData (s := (s.markServed false).driveAddress s.mu.a) h h.mu.d
  | txn => rw [mwBegin_txn hv]; exact drivePendingData (s := (s.markServed false).drivePendingAddress s.mu.a) h h.mu.d

theorem mrBegin (h : s.BoundedBy x W) : (mrBegin s).BoundedBy x W := by
  cases hv : s.cfg.variant with
  | pin => rw [mrBegin_pin hv]; exact h
  | txn => rw [mrBegin_txn hv]; exact h

theorem mrSample {w : Word} (p : MasterPhase) (n : Nat) (h : s.BoundedBy x W) (hw : W w) :
    ((s.withMu { s.mu with q := w }).muWaitfor p n).BoundedBy x W :=
  h.withMu (u := { s.mu with q := w }) ⟨h.mu.d, hw, h.mu.acc⟩

theorem mwAwaitAck (h : s.BoundedBy x W) (hs : mwAwaitAck s = .next t) : t.BoundedBy x W := by
  rcases mwAwaitAck_next.mp hs with ⟨-, rfl⟩ | ⟨-, rfl⟩
  · exact h
  · exact h

theorem mrAwaitAck (h : s.BoundedBy x W) (hs : mrAwaitAck s = .next t) : t.BoundedBy x W := by
  rcases mrAwaitAck_next.mp hs with ⟨-, w, hw, rfl⟩ | ⟨-, rfl⟩
  · exact h.mrSample _ _ (h.busData hw)
  · exact h

theorem completeMaster {r : Result} (h : s.BoundedBy x W) (hs : completeMaster r s = .next t) : t.BoundedBy x W := by
  obtain rfl := completeMaster_next.mp hs
  exact h

section
variable {ret : State → Answer} (hret : ∀ s t, s.BoundedBy x W → ret s = .next t → t.BoundedBy x W)
include hret

theorem mwRelease (h : s.BoundedBy x W) (hs : mwRelease ret s = .next t) : t.BoundedBy x W := by
  rcases mwRelease_next.mp hs with ⟨-, hr⟩ | ⟨-, rfl⟩
  · exact hret (s.withMu { s.mu with phase := .mw .waitRel }) t h hr
  · exact h

theorem mrRelease (h : s.BoundedBy x W) (hs : mrRelease ret s = .next t) : t.BoundedBy x W := by
  rcases mrRelease_next.mp hs with ⟨-, hr⟩ | ⟨-, rfl⟩
  · exact hret (s.withMu { s.mu with phase := .mr .waitRel }) t h hr
  · exact h

theorem mwSegment {p : MwPoint} (h : s.BoundedBy x W) (hs : mwSegment ret p s = .next t) : t.BoundedBy x W := by
  rcases mwSegment_next hs with ⟨-, rfl⟩ | (⟨-, ha⟩ | ⟨-, ha⟩) | (⟨-, hr⟩ | ⟨-, hr⟩) | ⟨-, rfl⟩ | ⟨-, rfl⟩ | ⟨-, hr⟩
  · exact h.mwBegin
  · exact mwAwaitAck (s := s.driveReady true) h ha
  · exact h.mwAwaitAck ha
  · exact mwRelease hret (s := s.driveReady false) h hr
  · exact h.mwRelease hret hr
  · exact h.wake (.notice .readyNotice)
  · exact h
  · exact hret _ _ h hr

theorem mrSegment {p : MrPoint} (h : s.BoundedBy x W) (hs : mrSegment ret p s = .next t) : t.BoundedBy x W := by
  rcases mrSegment_next hs with ⟨-, rfl⟩ | (⟨-, ha⟩ | ⟨-, ha⟩) | (⟨-, hr⟩ | ⟨-, hr⟩) | ⟨-, rfl⟩ | ⟨-, hq⟩ | ⟨-, hr⟩
  · exact h.mrBegin
  · exact mrAwaitAck (s := s.driveReady true) h ha
  · exact h.mrAwaitAck ha
  · exact mrRelease hret (s := s.driveReady false) h hr
  · exact h.mrRelease hret hr
  · exact h.wake (.notice .readyNotice)
  · obtain ⟨w, hw, rfl⟩ := mrSample_next.mp hq
    exact h.mrSample _ _ (h.pendingData hw)
  · exact hret _ _ h hr

end

theorem lmwContinue {r : Link × Bool} (h : s.BoundedBy x W) (hr : W r.1.acc)
    (hs : lmwContinue r s = .next t) : t.BoundedBy x W := by
  unfold Machine.lmwContinue at hs
  split at hs
  · cases hs
    exact (h.withMu (u := { s.mu with link := r.1, a := r.1.laddr, d := r.1.acc }) ⟨hr, h.mu.q, hr⟩).mwBegin
  · exact (h.withMu (u := { s.mu with link := r.1 }) ⟨h.mu.d, h.mu.q, hr⟩).completeMaster hs

theorem lmrContinue {r : Link × Bool} (h : s.BoundedBy x W) (hr : W r.1.acc)
    (hs : lmrContinue r s = .next t) : t.BoundedBy x W := by
  unfold Machine.lmrContinue at hs
  split at hs
  · cases hs
    exact (h.withMu (u := { s.mu with link := r.1, a := r.1.laddr }) ⟨h.mu.d, h.mu.q, hr⟩).mrBegin
  · exact (h.withMu (u := { s.mu with link := r.1 }) ⟨h.mu.d, h.mu.q, hr⟩).completeMaster hs

theorem lmwReturn (h : s.BoundedBy x W) (hs : lmwReturn s = .next t) : t.BoundedBy x W :=
  h.lmwContinue (Link.writeReturn_acc h.fits h.mu.acc) hs

theorem lmrReturn (h : s.BoundedBy x W) (hs : lmrReturn s = .next t) : t.BoundedBy x W :=
  h.lmrContinue (Link.readReturn_acc h.fits _ _) hs

/-! ## `SU[k]` -/

section
variable {k : Nat} {u : SlaveUnit}

theorem servePin (h : s.BoundedBy x W) (hu : u.Words W) (hs : servePin k u s = .next t) : t.BoundedBy x W := by
  obtain ⟨-, -, ⟨-, w, hw, rfl⟩ | ⟨-, rfl⟩⟩ := servePin_next.mp hs
  · exact withSu (s := s.markServed true) h ⟨hu.d, h.busData hw, hu.acc⟩
  · exact (driveData (s := s.markServed true) h hu.d).withSu hu

theorem serveTxn (h : s.BoundedBy x W) (hu : u.Words W) (hs : serveTxn k u s = .next t) : t.BoundedBy x W := by
  obtain ⟨-, -, ⟨-, w, hw, rfl⟩ | ⟨-, rfl⟩⟩ := serveTxn_next.mp hs
  · exact withSu (s := s.markServed true) h ⟨hu.d, h.pendingData hw, hu.acc⟩
  · exact (drivePendingData (s := s.markServed true) h hu.d).withSu hu

theorem suAwaitReady (h : s.BoundedBy x W) (hu : u.Words W) (hs : suAwaitReady k u s = .next t) :
    t.BoundedBy x W := by
  rcases suAwaitReady_next.mp hs with ⟨-, ht⟩ | ⟨-, rfl⟩
  · obtain ⟨x, -, ⟨-, hm⟩ | ⟨-, rfl⟩⟩ := testPin_next.mp ht
    · exact h.servePin hu hm
    · exact h.withSu hu
  · exact h.withSu hu

theorem suAwaitRelease (h : s.BoundedBy x W) (hu : u.Words W) (hs : suAwaitRelease k u s = .next t) :
    t.BoundedBy x W := by
  rcases suAwaitRelease_next.mp hs with ⟨-, rfl⟩ | ⟨-, rfl⟩
  · exact h.withSu hu
  · exact h.withSu hu

theorem testTxn (h : s.BoundedBy x W) (hu : u.Words W) (hs : testTxn k u s = .next t) :
    t.BoundedBy x W := by
  obtain ⟨x, -, ⟨-, hm⟩ | ⟨-, rfl⟩⟩ := testTxn_next.mp hs
  · exact h.serveTxn hu hm
  · exact h.withSu hu

theorem slaveBegin (h : s.BoundedBy x W) (hu : u.Words W) (hs : slaveBegin k u s = .next t) :
    t.BoundedBy x W := by
  rcases slaveBegin_next.mp hs with ⟨-, ha⟩ | ⟨-, rfl⟩
  · exact h.suAwaitReady hu ha
  · exact h.withSu hu

theorem completeSlave {r : Result} (h : s.BoundedBy x W) (hu : u.Words W)
    (hs : completeSlave k r u s = .next t) : t.BoundedBy x W := by
  obtain rfl := completeSlave_next.mp hs
  exact h.withSu hu

theorem slaveSegment {ret : SlaveUnit → State → Answer} {p : SlavePoint}
    (hret : ∀ u s t, s.BoundedBy x W → u.Words W → ret u s = .next t → t.BoundedBy x W)
    (h : s.BoundedBy x W) (hu : u.Words W) (hs : slaveSegment k ret p u s = .next t) : t.BoundedBy x W := by
  rcases slaveSegment_next hs with ⟨-, hb⟩ | ⟨-, ha⟩ | (⟨-, hr⟩ | ⟨-, hr⟩) | ⟨-, hr⟩ | ⟨-, ht⟩ | ⟨-, rfl⟩ | ⟨-, hr⟩
  · exact h.slaveBegin hu hb
  · exact h.suAwaitReady hu ha
  · exact suAwaitRelease (s := s.driveAck true) h hu hr
  · exact h.suAwaitRelease hu hr
  · exact hret u (s.driveAck false) t h hu hr
  · exact h.testTxn hu ht
  · exact h.withSu hu
  · exact hret u (s.notify .ackNotice) t (h.wake (.notice .ackNotice)) hu hr

theorem lswContinue {r : Link × Bool} (h : s.BoundedBy x W) (hu : u.Words W)
    (hr : W r.1.acc) (hs : lswContinue k r u s = .next t) : t.BoundedBy x W := by
  unfold Machine.lswContinue at hs
  split at hs
  · exact slaveBegin (u := { u with link := r.1, a := r.1.laddr, dir := .drive, d := r.1.acc }) h ⟨hr, hu.q, hr⟩ hs
  · exact completeSlave (u := { u with link := r.1 }) h ⟨hu.d, hu.q, hr⟩ hs

theorem lsrContinue {r : Link × Bool} (h : s.BoundedBy x W) (hu : u.Words W)
    (hr : W r.1.acc) (hs : lsrContinue k r u s = .next t) : t.BoundedBy x W := by
  unfold Machine.lsrContinue at hs
  split at hs
  · exact slaveBegin (u := { u with link := r.1, a := r.1.laddr, dir := .capture }) h ⟨hu.d, hu.q, hr⟩ hs
  · exact completeSlave (u := { u with link := r.1 }) h ⟨hu.d, hu.q, hr⟩ hs

theorem lswReturn (h : s.BoundedBy x W) (hu : u.Words W) (hs : lswReturn k u s = .next t) :
    t.BoundedBy x W :=
  h.lswContinue hu (Link.writeReturn_acc h.fits hu.acc) hs

theorem lsrReturn (h : s.BoundedBy x W) (hu : u.Words W) (hs : lsrReturn k u s = .next t) :
    t.BoundedBy x W :=
  h.lsrContinue hu (Link.readReturn_acc h.fits _ _) hs

end

/-! ## The operations -/

/-- The start of a `RUN` of `SU[k]`, from which its segments go on. -/
theorem runStart {k : Nat} {u : SlaveUnit} (h : s.BoundedBy x W) (hu : u.Words W) :
    (s.withSu k { u with susp := .none }).BoundedBy x W ∧
      ({ u with susp := .none } : SlaveUnit).Words W :=
  ⟨h.withSu hu, hu⟩

theorem execMw {a : Addr} {d : Word} (h : s.BoundedBy x W) (hs : execMw a d s = .next t) : t.BoundedBy x W := by
  obtain ⟨-, ⟨-, hd, rfl⟩ | ⟨p, -, -, -, hp⟩⟩ := execMw_next.mp hs
  · exact h.withMu ⟨h.fits _ hd, h.mu.q, h.mu.acc⟩
  · exact mwSegment (fun _ _ => completeMaster) (s := s.withMu { s.mu with susp := .none }) h hp

theorem execMr {a : Addr} (h : s.BoundedBy x W) (hs : execMr a s = .next t) : t.BoundedBy x W := by
  obtain ⟨-, ⟨-, rfl⟩ | ⟨p, -, -, -, hp⟩⟩ := execMr_next.mp hs
  · exact h
  · exact mrSegment (fun _ _ => completeMaster) (s := s.withMu { s.mu with susp := .none }) h hp

theorem execLmw {a : Addr} {n : Len} (h : s.BoundedBy x W) (hs : execLmw a n s = .next t) : t.BoundedBy x W := by
  obtain ⟨-, ⟨-, -, rfl⟩ | ⟨-, -, -, hc⟩ | ⟨p, -, -, -, hp⟩⟩ := execLmw_next.mp hs
  · exact h
  · exact lmwContinue (s := s.withMu { s.mu with susp := .none }) h (Link.writeEntry_acc h.fits _) hc
  · exact mwSegment (fun _ _ => lmwReturn) (s := s.withMu { s.mu with susp := .none }) h hp

theorem execLmr {a : Addr} {n : Len} (h : s.BoundedBy x W) (hs : execLmr a n s = .next t) : t.BoundedBy x W := by
  obtain ⟨-, ⟨-, -, rfl⟩ | ⟨-, -, -, hc⟩ | ⟨p, -, -, -, hp⟩⟩ := execLmr_next.mp hs
  · exact h
  · exact lmrContinue (s := s.withMu { s.mu with susp := .none }) h (Link.readEntry_acc h.fits h.mu.acc) hc
  · exact mrSegment (fun _ _ => lmrReturn) (s := s.withMu { s.mu with susp := .none }) h hp

theorem execSr {a : Addr} (h : s.BoundedBy x W) (hs : execSr a s = .next t) : t.BoundedBy x W := by
  obtain ⟨k, u, -, hk, hc⟩ := execSr_next.mp hs
  have hu := h.su hk
  obtain ⟨hr, hv⟩ := h.runStart (k := k) hu
  rcases hc with ⟨-, rfl⟩ | ⟨p, -, -, -, hp⟩
  · exact h.withSu hu
  · exact hr.slaveSegment (fun _ _ _ => completeSlave) hv hp

theorem execSw {a : Addr} {d : Word} (h : s.BoundedBy x W) (hs : execSw a d s = .next t) : t.BoundedBy x W := by
  obtain ⟨k, u, -, hk, hc⟩ := execSw_next.mp hs
  have hu := h.su hk
  obtain ⟨hr, hv⟩ := h.runStart (k := k) hu
  rcases hc with ⟨-, hd, rfl⟩ | ⟨p, -, -, -, hp⟩
  · exact h.withSu ⟨h.fits _ hd, hu.q, hu.acc⟩
  · exact hr.slaveSegment (fun _ _ _ => completeSlave) hv hp

theorem execLsw {a : Addr} {n : Len} (h : s.BoundedBy x W) (hs : execLsw a n s = .next t) : t.BoundedBy x W := by
  obtain ⟨k, u, -, hk, hc⟩ := execLsw_next.mp hs
  have hu := h.su hk
  obtain ⟨hr, hv⟩ := h.runStart (k := k) hu
  rcases hc with ⟨-, -, rfl⟩ | ⟨-, -, -, hc⟩ | ⟨p, -, -, -, hp⟩
  · exact withSu (s := s.drawLength n) h hu
  · exact hr.lswContinue hv (Link.writeEntry_acc h.fits _) hc
  · exact hr.slaveSegment (fun _ _ _ => lswReturn) hv hp

theorem execLsr {a : Addr} {n : Len} (h : s.BoundedBy x W) (hs : execLsr a n s = .next t) : t.BoundedBy x W := by
  obtain ⟨k, u, -, hk, hc⟩ := execLsr_next.mp hs
  have hu := h.su hk
  obtain ⟨hr, hv⟩ := h.runStart (k := k) hu
  rcases hc with ⟨-, -, rfl⟩ | ⟨-, -, -, hc⟩ | ⟨p, -, -, -, hp⟩
  · exact withSu (s := s.drawLength n) h hu
  · exact hr.lsrContinue hv (Link.readEntry_acc h.fits hv.acc) hc
  · exact hr.slaveSegment (fun _ _ _ => lsrReturn) hv hp

theorem execIsend (h : s.BoundedBy x W) (hs : execIsend s = .next t) : t.BoundedBy x W := by
  obtain ⟨-, ⟨-, rfl⟩ | ⟨-, -, hp⟩ | ⟨-, -, hp⟩⟩ := execIsend_next.mp hs
  · exact h
  · cases hp
    exact driveIntr true (s := s.withSnd { s.snd with susp := .none }) h
  · cases hp
    exact driveIntr false (s := s.withSnd { s.snd with susp := .none }) h

theorem execIrecv (h : s.BoundedBy x W) (hs : execIrecv s = .next t) : t.BoundedBy x W := by
  obtain ⟨j, u, -, -, ⟨-, rfl⟩ | ⟨-, -, rfl⟩ | ⟨-, -, rfl⟩⟩ := execIrecv_next.mp hs
  · exact h.withRcv
  · exact h.withRcv.withRcv
  · exact h.withRcv.withRcv

theorem exec {i : Instr} (h : s.BoundedBy x W) (hs : exec i s = .next t) : t.BoundedBy x W := by
  cases i with
  | mw a d => exact h.execMw hs
  | mr a => exact h.execMr hs
  | sw a d => exact h.execSw hs
  | sr a => exact h.execSr hs
  | lmw a n => exact h.execLmw hs
  | lmr a n => exact h.execLmr hs
  | lsw a n => exact h.execLsw hs
  | lsr a n => exact h.execLsr hs
  | isend => exact h.execIsend hs
  | irecv => exact h.execIrecv hs

end State.BoundedBy

/-! ## The two uses: any word at all, and the words of `DATA_WIDTH` bits -/

theorem State.boundedBy_self (s : State) : s.BoundedBy s (fun _ => True) :=
  ⟨rfl, fun _ _ => trivial, fun _ _ => trivial, fun _ _ => trivial, ⟨trivial, trivial, trivial⟩,
    fun _ _ => ⟨trivial, trivial, trivial⟩⟩

/-- No operation changes the configuration, the time or the number of units. -/
theorem exec_shape {i : Instr} (h : exec i s = .next t) : t.shape = s.shape :=
  (s.boundedBy_self.exec h).shape

theorem State.present_shape (s : State) (u : UnitId) (c : Command) : (s.present u c).shape = s.shape :=
  (s.boundedBy_self.popCommand u).shape

theorem State.boundedBy_fits_iff {x : State} :
    s.BoundedBy x (fun w => x.cfg.dataWidth.fits w = true) ↔ s.shape = x.shape ∧ s.WidthsFit := by
  constructor
  · rintro ⟨hx, -, hb, hp, hm, hs⟩
    have hc : s.cfg = x.cfg := (State.shape_eq_iff.mp hx).1
    rw [← hc] at hb hp hm hs
    exact ⟨hx, (Option.all_eq_true _ _).mpr hb, (Option.all_eq_true _ _).mpr hp, hm, hs⟩
  · rintro ⟨hx, hb, hp, hm, hs⟩
    have hc : s.cfg = x.cfg := (State.shape_eq_iff.mp hx).1
    rw [hc] at hb hp hm hs
    exact ⟨hx, fun w hw => hc ▸ hw, (Option.all_eq_true _ _).mp hb, (Option.all_eq_true _ _).mp hp, hm, hs⟩

theorem State.WidthsFit.boundedBy (h : s.WidthsFit) :
    s.BoundedBy s (fun w => s.cfg.dataWidth.fits w = true) :=
  State.boundedBy_fits_iff.mpr ⟨rfl, h⟩

theorem exec_widthsFit {i : Instr} (h : s.WidthsFit) (he : exec i s = .next t) : t.WidthsFit :=
  (State.boundedBy_fits_iff.mp (h.boundedBy.exec he)).2

theorem present_widthsFit (u : UnitId) (c : Command) (h : s.WidthsFit) : (s.present u c).WidthsFit :=
  (State.boundedBy_fits_iff.mp (h.boundedBy.popCommand u)).2

end Sys2Proof.Machine
end

section
/-! The obligations of 00_scope.md. -/

namespace Sys2Proof.Machine

variable {s t : State}

/-- Settles O52: every operation keeps the data words in width, for a word it writes is a truncation, a well-formed operand
or a word the state held before; the order, the presenting of a command and the advance of time write none. -/
theorem everyStepKeepsTheWordsInWidth : Obligations.EveryStepKeepsTheWordsInWidth := fun _ _ h hs =>
  step_keeps State.WidthsFit
    (order := fun _ _ _ _ h => h)
    (present := fun _ u c h _ => present_widthsFit u c h)
    (operation := fun _ _ _ h he => exec_widthsFit h he)
    (time := fun _ _ h _ _ => h) h hs

/-! ## The configuration and the time -/

/-- The state `t` has the configuration and the units of `s`, at the same time or later. -/
def State.Precedes (s t : State) : Prop :=
  t.cfg = s.cfg ∧ s.now ≤ t.now ∧ t.su.length = s.su.length ∧ t.rcv.length = s.rcv.length

theorem State.Precedes.of_shape {r : State} (h : s.Precedes r) (ht : t.shape = r.shape) : s.Precedes t := by
  obtain ⟨hc, hn, hsu, hr⟩ := State.shape_eq_iff.mp ht
  rw [State.Precedes, hc, hn, hsu, hr]
  exact h

theorem State.Precedes.advance {n : Nat} (h : s.Precedes t) (hn : t.nextTime = some n) : s.Precedes (t.advance n) := by
  obtain ⟨hc, hle, hsu, hr⟩ := h
  obtain ⟨-, hlt, -⟩ := leastAbove_some hn
  exact ⟨hc, hle.trans hlt.le, hsu, by simpa using hr⟩

/-- Settles O9: an operation leaves the configuration, the time and the number of units as they are, and `ADVANCE` goes to
a time above `now`. -/
theorem configurationNeverChanges : Obligations.ConfigurationNeverChanges := fun s _ hs =>
  step_keeps s.Precedes
    (order := fun _ _ _ _ h => h)
    (present := fun r u c h _ => h.of_shape (r.present_shape u c))
    (operation := fun _ _ _ h he => h.of_shape (exec_shape he))
    (time := fun _ _ h _ hn => h.advance hn)
    ⟨rfl, le_rfl, rfl, rfl⟩ hs

/-! ## The parameters -/

/-- Settles O8: the values of R6, evaluated. -/
theorem defaultParametersAndTicks : Obligations.DefaultParametersAndTicks := by
  unfold Obligations.DefaultParametersAndTicks
  decide

theorem legal_iff (c : Config) :
    c.legal = true ↔
      c.addrWidth = 16 ∧ 1 ≤ c.nSlaves ∧ 1 ≤ c.nRecv ∧ (c.variant = .pin → 1 ≤ c.tBackoff) ∧
      (c.clocked = true → 1 ≤ c.tTick ∧ ∀ d ∈ c.delays, c.tTick ∣ d) := by
  have hv : (c.variant == .txn || decide (1 ≤ c.tBackoff)) = true ↔ (c.variant = .pin → 1 ≤ c.tBackoff) := by
    cases c.variant <;> simp
  have ht : (!c.clocked || (decide (1 ≤ c.tTick) && c.delays.all (fun n => n % c.tTick == 0))) = true ↔
      (c.clocked = true → 1 ≤ c.tTick ∧ ∀ d ∈ c.delays, c.tTick ∣ d) := by
    cases c.clocked <;> simp [Nat.dvd_iff_mod_eq_zero]
  simp only [Config.legal, Bool.and_eq_true, beq_iff_eq, decide_eq_true_eq, hv, ht, and_assoc]

/-- Settles O11: `Config.legal` read clause by clause, and the step's first test. -/
theorem illegalConfigurationIsRefused : Obligations.IllegalConfigurationIsRefused := fun s =>
  ⟨legal_iff s.cfg, fun h => by simp [step, stepOnce, h]⟩

end Sys2Proof.Machine
end

section
/-! The state after reset (10_state.md R34): what it holds, and that it meets the invariants of the block. -/

namespace Sys2Proof.Machine

/-- Every slave-side unit that reset leaves is as `SlaveUnit.reset` says. -/
theorem State.resetWith_su {c : Config} {u : SlaveUnit} (h : u ∈ (State.resetWith c).su) : u = SlaveUnit.reset :=
  List.eq_of_mem_replicate h

/-- Every receiver that reset leaves is as `ReceiverUnit.reset` says. -/
theorem State.resetWith_rcv {c : Config} {u : ReceiverUnit} (h : u ∈ (State.resetWith c).rcv) :
    u = ReceiverUnit.reset :=
  List.eq_of_mem_replicate h

/-- After reset no unit is suspended. -/
theorem State.resetWith_suspOf {c : Config} {u : UnitId} {w : Susp} (h : (State.resetWith c).suspOf u = some w) :
    w = .none := by
  cases u with
  | mu => exact (Option.some.inj h).symm
  | is => exact (Option.some.inj h).symm
  | su k =>
    obtain ⟨u, hu, rfl⟩ := Option.map_eq_some_iff.mp h
    rw [State.resetWith_su (List.mem_of_getElem? hu)]; rfl
  | ir j =>
    obtain ⟨u, hu, rfl⟩ := Option.map_eq_some_iff.mp h
    rw [State.resetWith_rcv (List.mem_of_getElem? hu)]; rfl

/-- Settles O6: the fields of the reset state, read off; nobody waits for a notice, for no unit is suspended. -/
theorem resetState : Obligations.ResetState := by
  intro c s
  refine ⟨rfl, rfl, rfl, rfl, rfl, rfl, rfl, rfl, rfl, ⟨rfl, rfl, rfl, rfl⟩, ⟨List.length_replicate, fun u hu => ?_⟩,
    ⟨rfl, rfl, rfl⟩, ⟨List.length_replicate, fun u hu => ?_⟩, fun e => ?_⟩
  · rw [State.resetWith_su hu]; exact ⟨rfl, rfl, rfl, rfl⟩
  · rw [State.resetWith_rcv hu]; exact ⟨rfl, rfl, rfl, rfl⟩
  · refine List.filter_eq_nil_iff.mpr fun u _ hw => ?_
    cases State.resetWith_suspOf (beq_iff_eq.mp hw)

/-! ## The invariants -/

theorem resetWith_widthsFit (c : Config) : (State.resetWith c).WidthsFit := by
  have hz := fits_zero c.dataWidth
  refine ⟨rfl, rfl, ⟨hz, hz, hz⟩, fun u hu => ?_⟩
  rw [State.resetWith_su hu]; exact ⟨hz, hz, hz⟩

theorem resetWith_timely (c : Config) : (State.resetWith c).Timely := by
  refine ⟨⟨rfl, fun _ => rfl⟩, fun u hu => ?_, ⟨rfl, fun _ => rfl⟩, fun u hu => ?_⟩
  · rw [State.resetWith_su hu]; exact ⟨rfl, fun _ => rfl⟩
  · rw [State.resetWith_rcv hu]; exact ⟨rfl, fun _ => rfl⟩

/-- `LEN` 0 is a value of any number of bits. -/
theorem lengthFits_zero (c : Config) : c.lengthFits 0 = true :=
  decide_eq_true (Nat.two_pow_pos _)

theorem resetWith_linksFit (c : Config) : (State.resetWith c).LinksFit := by
  have hn := lengthFits_zero c
  have hmu : MasterUnit.reset.LopFits := by decide
  have hsu : SlaveUnit.reset.LopFits := by decide
  have hport : Port.empty.BuffersFit := by decide
  refine ⟨rfl, ⟨hmu, ?_, hport⟩, fun u hu => ?_, hport, fun u hu => ?_⟩
  · exact ⟨rfl, hn, Nat.zero_le _, fun _ => le_rfl, nofun, nofun⟩
  · rw [State.resetWith_su hu]
    exact ⟨hsu, ⟨rfl, hn, Nat.zero_le _, fun _ => le_rfl, nofun, nofun⟩, hport⟩
  · rw [State.resetWith_rcv hu]; exact hport

/-- No unit serves after reset. -/
theorem resetWith_handshake {c : Config} (h : c.variant = .pin) : (State.resetWith c).Handshake := by
  refine ⟨h, ⟨rfl, rfl, nofun, nofun, nofun⟩, fun u hu => ?_, ?_, nofun⟩
  · rw [State.resetWith_su hu]; exact ⟨rfl, nofun⟩
  · simp [State.resetWith, List.countP_replicate, SlaveUnit.reset, SlavePhase.serving]

/-- Settles O51: invariant by invariant, every unit being idle and every register zero. -/
theorem resetMeetsTheInvariants : Obligations.ResetMeetsTheInvariants := fun c =>
  ⟨resetWith_widthsFit c, resetWith_timely c, resetWith_linksFit c, rfl, resetWith_handshake⟩

end Sys2Proof.Machine
end

section
/-! The link registers and the buffers keep their ranges (10_state.md R28; 20_memory.md R41; 43_media_access.md R122):
first the loops of the media access layer, then every update of the state and every operation keep `LinksFit`. -/

namespace Sys2Proof.Machine

variable {s t : State} {dw : DataWidth} {c : Config}

/-! ## The loops -/

theorem dataBytes_pos (dw : DataWidth) : 0 < dw.bytes := by
  cases dw <;> decide

/-- The registers of the write direction in range: `IDX` at most `LEN`, `CNT` at most `DATA_BYTES`, the length and the
buffer those of `l`. -/
def Link.WritesFrom (dw : DataWidth) (l m : Link) : Prop :=
  m.buf = l.buf ∧ m.len = l.len ∧ m.idx ≤ l.len.toNat ∧ m.cnt ≤ dw.bytes

theorem Link.packLoop_writesFrom {n : Nat} {l : Link} (hn : n ≤ l.len.toNat - l.idx) (hi : l.idx ≤ l.len.toNat)
    (hc : l.cnt < dw.bytes) : l.WritesFrom dw (Link.packLoop dw n l).1 := by
  induction n generalizing l with
  | zero => exact ⟨rfl, rfl, hi, hc.le⟩
  | succ n ih =>
    have hi' : l.idx + 1 ≤ l.len.toNat := by omega
    simp only [Link.packLoop]
    split
    · exact ⟨rfl, rfl, hi', hc⟩
    · rename_i hne
      exact ih (l := l.packByte dw) (by simp only [Link.packByte]; omega) hi' (lt_of_le_of_ne hc hne)

theorem Link.nextWrite_writesFrom {l : Link} (hi : l.idx ≤ l.len.toNat) (hc : l.cnt < dw.bytes) :
    l.WritesFrom dw (l.nextWrite dw).1 := by
  have h := Link.packLoop_writesFrom le_rfl hi hc
  simp only [Link.nextWrite]
  split
  · exact h
  · split
    · exact h
    · exact h

theorem Link.writeEntry_writesFrom (l : Link) : l.WritesFrom dw (l.writeEntry dw).1 :=
  Link.nextWrite_writesFrom (l := { l with idx := 0, acc := 0, cnt := 0 }) (Nat.zero_le _) (dataBytes_pos dw)

theorem Link.writeReturn_writesFrom {l : Link} (hi : l.idx ≤ l.len.toNat) (hc : l.cnt ≤ dw.bytes) :
    l.WritesFrom dw (l.writeReturn dw).1 := by
  unfold Link.writeReturn
  split
  · exact Link.nextWrite_writesFrom (l := { l with acc := 0, cnt := 0 }) hi (dataBytes_pos dw)
  · exact ⟨rfl, rfl, hi, hc⟩

/-- The registers of the read direction after some bytes, `r.2` saying that a word is to be read: the length and `CNT`
those of `l`, the buffer of its size and canonical form, and `IDX` below `LEN` where a word is to be read. -/
def Link.ReadsFrom (l : Link) (r : Link × Bool) : Prop :=
  r.1.len = l.len ∧ r.1.cnt = l.cnt ∧ r.1.buf.size = l.buf.size ∧ (l.buf.wf = true → r.1.buf.wf = true) ∧
  (r.2 = true → r.1.idx < l.len.toNat)

theorem Link.unpackLoop_readsFrom {n : Nat} {l : Link} (hn : n ≤ l.len.toNat - l.idx) :
    l.ReadsFrom (Link.unpackLoop dw n l) := by
  induction n generalizing l with
  | zero => exact ⟨rfl, rfl, rfl, id, nofun⟩
  | succ n ih =>
    unfold Link.unpackLoop
    split
    · exact ⟨rfl, rfl, rfl, id, fun _ => by dsimp only; omega⟩
    · obtain ⟨hlen, hcnt, hsize, hwf, hidx⟩ := ih (l := l.unpackByte dw) (by simp only [Link.unpackByte]; omega)
      exact ⟨hlen, hcnt, hsize.trans (Buffer.write_size ..), fun h => hwf (Buffer.write_wf h _ _), hidx⟩

theorem Link.readEntry_readsFrom (l : Link) : l.ReadsFrom (l.readEntry dw) :=
  Link.unpackLoop_readsFrom (l := { l with idx := 0 }) le_rfl

theorem Link.readReturn_readsFrom (q : Word) (l : Link) : l.ReadsFrom (l.readReturn dw q) := by
  obtain ⟨hlen, hcnt, hsize, hwf, hidx⟩ :=
    Link.unpackLoop_readsFrom (dw := dw) (l := Link.unpackByte dw { l with acc := q }) le_rfl
  exact ⟨hlen, hcnt, hsize.trans (Buffer.write_size ..), fun h => hwf (Buffer.write_wf h _ _), hidx⟩

/-! ## The units -/

/-- What holds of link registers at every moment: a canonical buffer, `LEN` of `LEN_WIDTH` bits, `CNT` at most
`DATA_BYTES`. -/
abbrev Link.Fits (c : Config) (l : Link) : Prop :=
  l.buf.wf = true ∧ c.lengthFits l.len = true ∧ l.cnt ≤ c.dataWidth.bytes

theorem Link.WritesFrom.fits {l m : Link} (h : l.WritesFrom c.dataWidth m) (hl : l.Fits c) : m.Fits c := by
  obtain ⟨hb, hn, -, hc⟩ := h
  obtain ⟨hwf, hlen, -⟩ := hl
  exact ⟨hb ▸ hwf, hn ▸ hlen, hc⟩

theorem Link.WritesFrom.writeOk {l m : Link} (h : l.WritesFrom dw m) (hl : l.len.toNat ≤ l.buf.size) : m.WriteOk := by
  obtain ⟨hb, hn, hi, -⟩ := h
  exact ⟨hn ▸ hi, hn ▸ hb ▸ hl⟩

theorem Link.ReadsFrom.fits {l : Link} {r : Link × Bool} (h : l.ReadsFrom r) (hl : l.Fits c) : r.1.Fits c := by
  obtain ⟨hn, hc, -, hw, -⟩ := h
  obtain ⟨hwf, hlen, hcnt⟩ := hl
  exact ⟨hw hwf, hn ▸ hlen, hc ▸ hcnt⟩

theorem Link.ReadsFrom.readOk {l : Link} {r : Link × Bool} (h : l.ReadsFrom r) (hl : l.len.toNat ≤ l.buf.size)
    (hr : r.2 = true) : r.1.ReadOk := by
  obtain ⟨hn, -, hs, -, hi⟩ := h
  exact ⟨hn ▸ hi hr, hn ▸ hs ▸ hl⟩

/-- Where `MU` stands, `LOP` is that of the operation it is in, and `IDX` and the buffer are as the operation has them. -/
def MasterUnit.PlaceFits (u : MasterUnit) : Prop :=
  match u.phase with
  | .idle => u.lop = .none
  | .lmwStart => u.lop = .lmw ∧ u.link.len.toNat ≤ u.link.buf.size
  | .lmrStart => u.lop = .lmr ∧ u.link.len.toNat ≤ u.link.buf.size
  | .mw _ => u.lop = .none ∨ u.lop = .lmw ∧ u.link.WriteOk
  | .mr _ => u.lop = .none ∨ u.lop = .lmr ∧ u.link.ReadOk

/-- The same of a slave-side unit; its `DIR` is that of the calls its operation makes. -/
def SlaveUnit.PlaceFits (u : SlaveUnit) : Prop :=
  match u.phase with
  | .idle => u.lop = .none
  | .lswStart => u.lop = .lsw ∧ u.link.len.toNat ≤ u.link.buf.size
  | .lsrStart => u.lop = .lsr ∧ u.link.len.toNat ≤ u.link.buf.size
  | .word _ => u.lop = .none ∨ (u.lop = .lsw ∧ u.dir = .drive ∧ u.link.WriteOk) ∨
      (u.lop = .lsr ∧ u.dir = .capture ∧ u.link.ReadOk)

/-- What `LinksFit` asks of `MU`. -/
def MasterUnit.Fits (c : Config) (u : MasterUnit) : Prop := u.link.Fits c ∧ u.port.BuffersFit ∧ u.PlaceFits

/-- What `LinksFit` asks of a slave-side unit. -/
def SlaveUnit.Fits (c : Config) (u : SlaveUnit) : Prop := u.link.Fits c ∧ u.port.BuffersFit ∧ u.PlaceFits

theorem MasterUnit.fits_iff (u : MasterUnit) :
    u.Fits c ↔ u.LopFits ∧ u.LinkFits c ∧ u.port.BuffersFit := by
  cases hp : u.phase <;> cases hl : u.lop <;>
    simp [Fits, PlaceFits, LopFits, LinkFits, hp, hl, MasterPhase.inMw, MasterPhase.inMr] <;> tauto

theorem SlaveUnit.fits_iff (u : SlaveUnit) :
    u.Fits c ↔ u.LopFits ∧ u.LinkFits c ∧ u.port.BuffersFit := by
  cases hp : u.phase <;> cases hl : u.lop <;>
    simp [Fits, PlaceFits, LopFits, LinkFits, hp, hl, SlavePhase.inWord] <;> tauto

/-- `MU` is inside MW, or about to start it, at whichever point. -/
abbrev MasterUnit.CallsMw (c : Config) (u : MasterUnit) : Prop := { u with phase := .mw .start }.Fits c

/-- `MU` is inside MR, or about to start it, at whichever point. -/
abbrev MasterUnit.CallsMr (c : Config) (u : MasterUnit) : Prop := { u with phase := .mr .start }.Fits c

/-- A slave-side unit is inside SR or SW, or about to start it, at whichever point. -/
abbrev SlaveUnit.CallsWord (c : Config) (u : SlaveUnit) : Prop := { u with phase := .word .start }.Fits c

theorem MasterUnit.Fits.lop_of_idle {u : MasterUnit} (h : u.Fits c) (hp : u.phase = .idle) : u.lop = .none := by
  obtain ⟨-, -, hf⟩ := h
  simpa [PlaceFits, hp] using hf

theorem SlaveUnit.Fits.lop_of_idle {u : SlaveUnit} (h : u.Fits c) (hp : u.phase = .idle) : u.lop = .none := by
  obtain ⟨-, -, hf⟩ := h
  simpa [PlaceFits, hp] using hf

theorem MasterUnit.Fits.callsMw {u : MasterUnit} {p : MwPoint} (h : u.Fits c) (hp : u.phase = .mw p) : u.CallsMw c := by
  obtain ⟨hl, hb, hf⟩ := h
  refine ⟨hl, hb, ?_⟩
  simpa [PlaceFits, hp] using hf

theorem MasterUnit.Fits.callsMr {u : MasterUnit} {p : MrPoint} (h : u.Fits c) (hp : u.phase = .mr p) : u.CallsMr c := by
  obtain ⟨hl, hb, hf⟩ := h
  refine ⟨hl, hb, ?_⟩
  simpa [PlaceFits, hp] using hf

theorem SlaveUnit.Fits.callsWord {u : SlaveUnit} {p : SlavePoint} (h : u.Fits c) (hp : u.phase = .word p) :
    u.CallsWord c := by
  obtain ⟨hl, hb, hf⟩ := h
  refine ⟨hl, hb, ?_⟩
  simpa [PlaceFits, hp] using hf

/-! ## The updates of the state -/

theorem State.linksFit_iff :
    s.LinksFit ↔ s.handed.wf = true ∧ s.mu.Fits s.cfg ∧ (∀ u ∈ s.su, u.Fits s.cfg) ∧
      s.snd.port.BuffersFit ∧ ∀ u ∈ s.rcv, u.port.BuffersFit := by
  simp only [State.LinksFit, MasterUnit.fits_iff, SlaveUnit.fits_iff]

theorem Port.BuffersFit.pop {p : Port} (h : p.BuffersFit) : p.pop.BuffersFit :=
  fun c hc => h c (List.mem_of_mem_tail hc)

/-- A command that is due is one of those the unit's port has still to issue. -/
theorem dueCommand_mem {u : UnitId} {c : Command} (h : s.dueCommand u = some c) :
    ∃ p, s.portOf u = some p ∧ c ∈ p.todo := by
  unfold State.dueCommand at h
  split at h
  · cases h
  · cases hp : s.portOf u with
    | none => simp [hp] at h
    | some p =>
      rw [hp] at h
      refine ⟨p, rfl, ?_⟩
      cases ht : p.todo with
      | nil => simp [ht] at h
      | cons c' cs => simp_all

namespace State.LinksFit

theorem handed (h : s.LinksFit) : s.handed.wf = true := by
  obtain ⟨hh, -⟩ := h
  exact hh

theorem mu (h : s.LinksFit) : s.mu.Fits s.cfg := by
  obtain ⟨-, hm, -⟩ := linksFit_iff.mp h
  exact hm

theorem su {k : Nat} {u : SlaveUnit} (h : s.LinksFit) (hu : s.su[k]? = some u) : u.Fits s.cfg := by
  obtain ⟨-, -, hs, -⟩ := linksFit_iff.mp h
  exact hs u (List.mem_of_getElem? hu)

theorem snd (h : s.LinksFit) : s.snd.port.BuffersFit := by
  obtain ⟨-, -, -, hi, -⟩ := h
  exact hi

theorem rcv {j : Nat} {u : ReceiverUnit} (h : s.LinksFit) (hu : s.rcv[j]? = some u) : u.port.BuffersFit := by
  obtain ⟨-, -, -, -, hr⟩ := h
  exact hr u (List.mem_of_getElem? hu)

theorem portOf {u : UnitId} {p : Port} (h : s.LinksFit) (hp : s.portOf u = some p) : p.BuffersFit := by
  cases u with
  | mu =>
    obtain rfl := Option.some.inj hp
    obtain ⟨-, hb, -⟩ := h.mu
    exact hb
  | su k =>
    obtain ⟨v, hv, rfl⟩ := Option.map_eq_some_iff.mp hp
    obtain ⟨-, hb, -⟩ := h.su hv
    exact hb
  | is =>
    obtain rfl := Option.some.inj hp
    exact h.snd
  | ir j =>
    obtain ⟨v, hv, rfl⟩ := Option.map_eq_some_iff.mp hp
    exact h.rcv hv

theorem withMu {u : MasterUnit} (h : s.LinksFit) (hu : u.Fits s.cfg) : (s.withMu u).LinksFit := by
  obtain ⟨hh, -, hrest⟩ := linksFit_iff.mp h
  exact linksFit_iff.mpr ⟨hh, hu, hrest⟩

theorem withSu {k : Nat} {u : SlaveUnit} (h : s.LinksFit) (hu : u.Fits s.cfg) : (s.withSu k u).LinksFit := by
  obtain ⟨hh, hm, hs, hrest⟩ := linksFit_iff.mp h
  refine linksFit_iff.mpr ⟨hh, hm, fun v hv => ?_, hrest⟩
  rcases List.mem_or_eq_of_mem_set hv with hv | rfl
  · exact hs v hv
  · exact hu

theorem withSnd {u : SenderUnit} (h : s.LinksFit) (hu : u.port.BuffersFit) : (s.withSnd u).LinksFit := by
  obtain ⟨hh, hm, hs, -, hr⟩ := h
  exact ⟨hh, hm, hs, hu, hr⟩

theorem withRcv {j : Nat} {u : ReceiverUnit} (h : s.LinksFit) (hu : u.port.BuffersFit) : (s.withRcv j u).LinksFit := by
  obtain ⟨hh, hm, hs, hi, hr⟩ := h
  refine ⟨hh, hm, hs, hi, fun v hv => ?_⟩
  rcases List.mem_or_eq_of_mem_set hv with hv | rfl
  · exact hr v hv
  · exact hu

theorem wake (w : Susp) (h : s.LinksFit) : (s.wake w).LinksFit := by
  obtain ⟨hh, hm, hs, hi, hr⟩ := h
  exact ⟨hh, hm, List.forall_mem_map.mpr hs, hi, List.forall_mem_map.mpr hr⟩

theorem driveIntr (v : Bool) (h : s.LinksFit) : (s.driveIntr v).LinksFit := by
  unfold State.driveIntr
  split
  · exact wake .edge (s := { s with intr := true }) h
  · exact h

theorem advance (n : Nat) (h : s.LinksFit) : (s.advance n).LinksFit := by
  obtain ⟨hh, hm, hs, hi, hr⟩ := h
  refine ⟨hh, hm, hs, hi, List.forall_mem_map.mpr fun u hu => ?_⟩
  unfold ReceiverUnit.sample
  split
  · exact hr u hu
  · exact hr u hu

theorem popCommand (u : UnitId) (h : s.LinksFit) : (s.popCommand u).LinksFit := by
  unfold State.popCommand
  split
  case h_1 =>
    obtain ⟨hl, hb, hf⟩ := h.mu
    exact h.withMu (u := { s.mu with port := s.mu.port.pop }) ⟨hl, hb.pop, hf⟩
  case h_2 k =>
    split
    case h_1 v hv =>
      obtain ⟨hl, hb, hf⟩ := h.su hv
      exact h.withSu (u := { v with port := v.port.pop }) ⟨hl, hb.pop, hf⟩
    case h_2 => exact h
  case h_3 =>
    exact h.withSnd h.snd.pop
  case h_4 j =>
    split
    case h_1 v hv => exact h.withRcv (h.rcv hv).pop
    case h_2 => exact h

theorem present {u : UnitId} {c : Command} (h : s.LinksFit) (hc : s.dueCommand u = some c) :
    (s.present u c).LinksFit := by
  obtain ⟨p, hp, hmem⟩ := dueCommand_mem hc
  obtain ⟨-, hrest⟩ := h.popCommand u
  exact ⟨h.portOf hp c hmem, hrest⟩

/-! ## `MU` -/

section
variable {v : MasterUnit} (h : s.LinksFit)
include h

theorem mwBegin (hv : v.CallsMw s.cfg) : (mwBegin (s.withMu v)).LinksFit := by
  cases hc : s.cfg.variant with
  | pin => rw [mwBegin_pin (s := s.withMu v) hc]; exact h.withMu hv
  | txn => rw [mwBegin_txn (s := s.withMu v) hc]; exact h.withMu hv

theorem mrBegin (hv : v.CallsMr s.cfg) : (mrBegin (s.withMu v)).LinksFit := by
  cases hc : s.cfg.variant with
  | pin => rw [mrBegin_pin (s := s.withMu v) hc]; exact h.withMu hv
  | txn => rw [mrBegin_txn (s := s.withMu v) hc]; exact h.withMu hv

theorem mwAwaitAck (hu : s.mu.CallsMw s.cfg) (hs : mwAwaitAck s = .next t) : t.LinksFit := by
  rcases mwAwaitAck_next.mp hs with ⟨-, rfl⟩ | ⟨-, rfl⟩
  · exact h.withMu hu
  · exact h.withMu hu

theorem mrAwaitAck (hu : s.mu.CallsMr s.cfg) (hs : mrAwaitAck s = .next t) : t.LinksFit := by
  rcases mrAwaitAck_next.mp hs with ⟨-, w, -, rfl⟩ | ⟨-, rfl⟩
  · exact h.withMu hu
  · exact h.withMu hu

theorem completeMaster {r : Result} (hl : v.link.Fits s.cfg) (hb : v.port.BuffersFit)
    (hs : completeMaster r (s.withMu v) = .next t) : t.LinksFit := by
  obtain rfl := completeMaster_next.mp hs
  exact h.withMu ⟨hl, hb, rfl⟩

theorem lmwContinue {r : Link × Bool} (hop : s.mu.lop = .lmw) (hl : r.1.Fits s.cfg) (hok : r.1.WriteOk)
    (hs : lmwContinue r s = .next t) : t.LinksFit := by
  obtain ⟨-, hb, -⟩ := h.mu
  unfold Machine.lmwContinue at hs
  split at hs
  · cases hs
    exact h.mwBegin ⟨hl, hb, .inr ⟨hop, hok⟩⟩
  · exact h.completeMaster (v := { s.mu with link := r.1 }) hl hb hs

theorem lmrContinue {r : Link × Bool} (hop : s.mu.lop = .lmr) (hl : r.1.Fits s.cfg) (hok : r.2 = true → r.1.ReadOk)
    (hs : lmrContinue r s = .next t) : t.LinksFit := by
  obtain ⟨-, hb, -⟩ := h.mu
  unfold Machine.lmrContinue at hs
  split at hs
  · cases hs
    exact h.mrBegin ⟨hl, hb, .inr ⟨hop, hok ‹_›⟩⟩
  · exact h.completeMaster (v := { s.mu with link := r.1 }) hl hb hs

theorem lmwEntry (hp : s.mu.phase = .lmwStart)
    (hs : Machine.lmwContinue (s.mu.link.writeEntry s.cfg.dataWidth) s = .next t) : t.LinksFit := by
  obtain ⟨hl, -, hf⟩ := h.mu
  obtain ⟨hop, hsize⟩ : s.mu.lop = .lmw ∧ s.mu.link.len.toNat ≤ s.mu.link.buf.size := by
    simpa [MasterUnit.PlaceFits, hp] using hf
  have hw := s.mu.link.writeEntry_writesFrom (dw := s.cfg.dataWidth)
  exact h.lmwContinue hop (hw.fits hl) (hw.writeOk hsize) hs

theorem lmrEntry (hp : s.mu.phase = .lmrStart)
    (hs : Machine.lmrContinue (s.mu.link.readEntry s.cfg.dataWidth) s = .next t) : t.LinksFit := by
  obtain ⟨hl, -, hf⟩ := h.mu
  obtain ⟨hop, hsize⟩ : s.mu.lop = .lmr ∧ s.mu.link.len.toNat ≤ s.mu.link.buf.size := by
    simpa [MasterUnit.PlaceFits, hp] using hf
  have hr := s.mu.link.readEntry_readsFrom (dw := s.cfg.dataWidth)
  exact h.lmrContinue hop (hr.fits hl) (hr.readOk hsize) hs

theorem lmwReturn (hu : s.mu.CallsMw s.cfg) (hop : s.mu.lop = .lmw) (hs : lmwReturn s = .next t) : t.LinksFit := by
  obtain ⟨hl, -, hf⟩ := hu
  obtain ⟨-, -, hcnt⟩ := id hl
  obtain ⟨hidx, hsize⟩ : s.mu.link.WriteOk := by simpa [MasterUnit.PlaceFits, hop] using hf
  have hw := Link.writeReturn_writesFrom hidx hcnt
  exact h.lmwContinue hop (hw.fits hl) (hw.writeOk hsize) hs

theorem lmrReturn (hu : s.mu.CallsMr s.cfg) (hop : s.mu.lop = .lmr) (hs : lmrReturn s = .next t) : t.LinksFit := by
  obtain ⟨hl, -, hf⟩ := hu
  obtain ⟨-, hsize⟩ : s.mu.link.ReadOk := by simpa [MasterUnit.PlaceFits, hop] using hf
  have hr := s.mu.link.readReturn_readsFrom (dw := s.cfg.dataWidth) s.mu.q
  exact h.lmrContinue hop (hr.fits hl) (hr.readOk hsize) hs

end

/-! The segments of MW and MR keep `LinksFit` where the return from the call does: up to there no link register
changes. -/

section
variable {ret : State → Answer} (h : s.LinksFit)
include h

theorem mwRelease (hret : ∀ r, r.LinksFit → r.mu.CallsMw r.cfg → r.mu.lop = s.mu.lop → ret r = .next t → t.LinksFit)
    (hu : s.mu.CallsMw s.cfg) (hs : mwRelease ret s = .next t) : t.LinksFit := by
  rcases mwRelease_next.mp hs with ⟨-, hr⟩ | ⟨-, rfl⟩
  · exact hret _ (h.withMu (u := { s.mu with phase := .mw .waitRel }) hu) hu rfl hr
  · exact h.withMu hu

theorem mrRelease (hret : ∀ r, r.LinksFit → r.mu.CallsMr r.cfg → r.mu.lop = s.mu.lop → ret r = .next t → t.LinksFit)
    (hu : s.mu.CallsMr s.cfg) (hs : mrRelease ret s = .next t) : t.LinksFit := by
  rcases mrRelease_next.mp hs with ⟨-, hr⟩ | ⟨-, rfl⟩
  · exact hret _ (h.withMu (u := { s.mu with phase := .mr .waitRel }) hu) hu rfl hr
  · exact h.withMu hu

theorem mwSegment {p : MwPoint}
    (hret : ∀ r, r.LinksFit → r.mu.CallsMw r.cfg → r.mu.lop = s.mu.lop → ret r = .next t → t.LinksFit)
    (hu : s.mu.CallsMw s.cfg) (hs : mwSegment ret p s = .next t) : t.LinksFit := by
  rcases mwSegment_next hs with ⟨-, rfl⟩ | (⟨-, ha⟩ | ⟨-, ha⟩) | (⟨-, hr⟩ | ⟨-, hr⟩) | ⟨-, rfl⟩ | ⟨-, rfl⟩ | ⟨-, hr⟩
  · exact h.mwBegin hu
  · exact mwAwaitAck (s := s.driveReady true) h hu ha
  · exact h.mwAwaitAck hu ha
  · exact mwRelease (s := s.driveReady false) h hret hu hr
  · exact h.mwRelease hret hu hr
  · exact (h.wake (.notice .readyNotice)).withMu hu
  · exact h.withMu hu
  · exact hret s h hu rfl hr

theorem mrSegment {p : MrPoint}
    (hret : ∀ r, r.LinksFit → r.mu.CallsMr r.cfg → r.mu.lop = s.mu.lop → ret r = .next t → t.LinksFit)
    (hu : s.mu.CallsMr s.cfg) (hs : mrSegment ret p s = .next t) : t.LinksFit := by
  rcases mrSegment_next hs with ⟨-, rfl⟩ | (⟨-, ha⟩ | ⟨-, ha⟩) | (⟨-, hr⟩ | ⟨-, hr⟩) | ⟨-, rfl⟩ | ⟨-, hq⟩ | ⟨-, hr⟩
  · exact h.mrBegin hu
  · exact mrAwaitAck (s := s.driveReady true) h hu ha
  · exact h.mrAwaitAck hu ha
  · exact mrRelease (s := s.driveReady false) h hret hu hr
  · exact h.mrRelease hret hu hr
  · exact (h.wake (.notice .readyNotice)).withMu hu
  · obtain ⟨w, -, rfl⟩ := mrSample_next.mp hq
    exact h.withMu hu
  · exact hret s h hu rfl hr

end

/-! ## `SU[k]` -/

section
variable {k : Nat} {u : SlaveUnit} (h : s.LinksFit) (hu : u.CallsWord s.cfg)
include h

section
include hu

theorem servePin (hs : servePin k u s = .next t) : t.LinksFit := by
  obtain ⟨-, -, ⟨-, w, -, rfl⟩ | ⟨-, rfl⟩⟩ := servePin_next.mp hs
  · exact withSu (s := s.markServed true) h hu
  · exact withSu (s := s.markServed true) h hu

theorem serveTxn (hs : serveTxn k u s = .next t) : t.LinksFit := by
  obtain ⟨-, -, ⟨-, w, -, rfl⟩ | ⟨-, rfl⟩⟩ := serveTxn_next.mp hs
  · exact withSu (s := s.markServed true) h hu
  · exact withSu (s := s.markServed true) h hu

theorem suAwaitReady (hs : suAwaitReady k u s = .next t) : t.LinksFit := by
  rcases suAwaitReady_next.mp hs with ⟨-, ht⟩ | ⟨-, rfl⟩
  · obtain ⟨x, -, ⟨-, hm⟩ | ⟨-, rfl⟩⟩ := testPin_next.mp ht
    · exact h.servePin hu hm
    · exact h.withSu hu
  · exact h.withSu hu

theorem suAwaitRelease (hs : suAwaitRelease k u s = .next t) : t.LinksFit := by
  rcases suAwaitRelease_next.mp hs with ⟨-, rfl⟩ | ⟨-, rfl⟩
  · exact h.withSu hu
  · exact h.withSu hu

theorem testTxn (hs : testTxn k u s = .next t) : t.LinksFit := by
  obtain ⟨x, -, ⟨-, hm⟩ | ⟨-, rfl⟩⟩ := testTxn_next.mp hs
  · exact h.serveTxn hu hm
  · exact h.withSu hu

theorem slaveBegin (hs : slaveBegin k u s = .next t) : t.LinksFit := by
  rcases slaveBegin_next.mp hs with ⟨-, ha⟩ | ⟨-, rfl⟩
  · exact h.suAwaitReady hu ha
  · exact h.withSu hu

/-- A segment of SR or SW keeps `LinksFit` where the return from the call does. -/
theorem slaveSegment {ret : SlaveUnit → State → Answer} {p : SlavePoint}
    (hret : ∀ r, r.LinksFit → r.cfg = s.cfg → ret u r = .next t → t.LinksFit)
    (hs : slaveSegment k ret p u s = .next t) : t.LinksFit := by
  rcases slaveSegment_next hs with ⟨-, hb⟩ | ⟨-, ha⟩ | (⟨-, hr⟩ | ⟨-, hr⟩) | ⟨-, hr⟩ | ⟨-, ht⟩ | ⟨-, rfl⟩ | ⟨-, hr⟩
  · exact h.slaveBegin hu hb
  · exact h.suAwaitReady hu ha
  · exact suAwaitRelease (s := s.driveAck true) h hu hr
  · exact h.suAwaitRelease hu hr
  · exact hret (s.driveAck false) h rfl hr
  · exact h.testTxn hu ht
  · exact h.withSu hu
  · exact hret (s.notify .ackNotice) (h.wake (.notice .ackNotice)) rfl hr

end

theorem completeSlave {r : Result} (hl : u.link.Fits s.cfg) (hb : u.port.BuffersFit)
    (hs : completeSlave k r u s = .next t) : t.LinksFit := by
  obtain rfl := completeSlave_next.mp hs
  exact h.withSu ⟨hl, hb, rfl⟩

theorem lswContinue {r : Link × Bool} (hb : u.port.BuffersFit) (hop : u.lop = .lsw) (hl : r.1.Fits s.cfg)
    (hok : r.1.WriteOk) (hs : lswContinue k r u s = .next t) : t.LinksFit := by
  unfold Machine.lswContinue at hs
  split at hs
  · exact slaveBegin (u := { u with link := r.1, a := r.1.laddr, dir := .drive, d := r.1.acc }) h
      ⟨hl, hb, .inr (.inl ⟨hop, rfl, hok⟩)⟩ hs
  · exact completeSlave (u := { u with link := r.1 }) h hl hb hs

theorem lsrContinue {r : Link × Bool} (hb : u.port.BuffersFit) (hop : u.lop = .lsr) (hl : r.1.Fits s.cfg)
    (hok : r.2 = true → r.1.ReadOk) (hs : lsrContinue k r u s = .next t) : t.LinksFit := by
  unfold Machine.lsrContinue at hs
  split at hs
  · exact slaveBegin (u := { u with link := r.1, a := r.1.laddr, dir := .capture }) h
      ⟨hl, hb, .inr (.inr ⟨hop, rfl, hok ‹_›⟩)⟩ hs
  · exact completeSlave (u := { u with link := r.1 }) h hl hb hs

theorem lswEntry (hu : u.Fits s.cfg) (hp : u.phase = .lswStart)
    (hs : Machine.lswContinue k (u.link.writeEntry s.cfg.dataWidth) u s = .next t) : t.LinksFit := by
  obtain ⟨hl, hb, hf⟩ := hu
  obtain ⟨hop, hsize⟩ : u.lop = .lsw ∧ u.link.len.toNat ≤ u.link.buf.size := by
    simpa [SlaveUnit.PlaceFits, hp] using hf
  have hw := u.link.writeEntry_writesFrom (dw := s.cfg.dataWidth)
  exact h.lswContinue hb hop (hw.fits hl) (hw.writeOk hsize) hs

theorem lsrEntry (hu : u.Fits s.cfg) (hp : u.phase = .lsrStart)
    (hs : Machine.lsrContinue k (u.link.readEntry s.cfg.dataWidth) u s = .next t) : t.LinksFit := by
  obtain ⟨hl, hb, hf⟩ := hu
  obtain ⟨hop, hsize⟩ : u.lop = .lsr ∧ u.link.len.toNat ≤ u.link.buf.size := by
    simpa [SlaveUnit.PlaceFits, hp] using hf
  have hr := u.link.readEntry_readsFrom (dw := s.cfg.dataWidth)
  exact h.lsrContinue hb hop (hr.fits hl) (hr.readOk hsize) hs

theorem lswReturn (hu : u.CallsWord s.cfg) (hop : u.lop = .lsw) (hs : lswReturn k u s = .next t) : t.LinksFit := by
  obtain ⟨hl, hb, hf⟩ := hu
  obtain ⟨-, -, hcnt⟩ := id hl
  obtain ⟨-, hidx, hsize⟩ : u.dir = .drive ∧ u.link.WriteOk := by simpa [SlaveUnit.PlaceFits, hop] using hf
  have hw := Link.writeReturn_writesFrom hidx hcnt
  exact h.lswContinue hb hop (hw.fits hl) (hw.writeOk hsize) hs

theorem lsrReturn (hu : u.CallsWord s.cfg) (hop : u.lop = .lsr) (hs : lsrReturn k u s = .next t) : t.LinksFit := by
  obtain ⟨hl, hb, hf⟩ := hu
  obtain ⟨-, -, hsize⟩ : u.dir = .capture ∧ u.link.ReadOk := by simpa [SlaveUnit.PlaceFits, hop] using hf
  have hr := u.link.readReturn_readsFrom (dw := s.cfg.dataWidth) u.q
  exact h.lsrContinue hb hop (hr.fits hl) (hr.readOk hsize) hs

end

/-! ## The operations -/

/-- The link registers as ISSUE latches them: the length is no more than the command says, and the buffer has as many
bytes. -/
theorem latch (h : s.LinksFit) {l : Link} {a : Addr} {n : Len} (hl : l.Fits s.cfg) (hn : n.toNat ≤ s.handed.size) :
    (l.latch a (s.latchedLength n) s.handed).Fits s.cfg ∧
      (l.latch a (s.latchedLength n) s.handed).len.toNat ≤ (l.latch a (s.latchedLength n) s.handed).buf.size := by
  obtain ⟨-, -, hcnt⟩ := hl
  exact ⟨⟨h.handed, latchedLength_fits n, hcnt⟩, (latchedLength_le n).trans hn⟩

theorem execMw {a : Addr} {d : Word} (h : s.LinksFit) (hs : execMw a d s = .next t) : t.LinksFit := by
  obtain ⟨-, ⟨hp, -, rfl⟩ | ⟨p, hp, -, -, hm⟩⟩ := execMw_next.mp hs
  · have hop := h.mu.lop_of_idle hp
    obtain ⟨hl, hb, -⟩ := h.mu
    exact h.withMu ⟨hl, hb, .inl hop⟩
  · exact mwSegment (s := s.withMu { s.mu with susp := .none }) h
      (fun r hr ⟨hl, hb, _⟩ _ => hr.completeMaster (v := r.mu) hl hb) (h.mu.callsMw hp) hm

theorem execMr {a : Addr} (h : s.LinksFit) (hs : execMr a s = .next t) : t.LinksFit := by
  obtain ⟨-, ⟨hp, rfl⟩ | ⟨p, hp, -, -, hm⟩⟩ := execMr_next.mp hs
  · have hop := h.mu.lop_of_idle hp
    obtain ⟨hl, hb, -⟩ := h.mu
    exact h.withMu ⟨hl, hb, .inl hop⟩
  · exact mrSegment (s := s.withMu { s.mu with susp := .none }) h
      (fun r hr ⟨hl, hb, _⟩ _ => hr.completeMaster (v := r.mu) hl hb) (h.mu.callsMr hp) hm

theorem execLmw {a : Addr} {n : Len} (h : s.LinksFit) (hs : execLmw a n s = .next t) : t.LinksFit := by
  obtain ⟨-, ⟨-, hn, rfl⟩ | ⟨hp, -, -, hc⟩ | ⟨p, hp, hi, -, hm⟩⟩ := execLmw_next.mp hs
  · obtain ⟨hl, hb, -⟩ := h.mu
    obtain ⟨hl', hsize⟩ := h.latch (a := a) hl hn
    exact withMu (s := s.drawLength n) h ⟨hl', hb, rfl, hsize⟩
  · exact lmwEntry (s := s.withMu { s.mu with susp := .none }) h hp hc
  · obtain ⟨hop, -⟩ := MasterUnit.current_lmw hi
    have hop : s.mu.lop = .lmw := by simpa [hp] using hop
    exact mwSegment (s := s.withMu { s.mu with susp := .none }) h
      (fun r hr hu hx => hr.lmwReturn hu (hx.trans hop)) (h.mu.callsMw hp) hm

theorem execLmr {a : Addr} {n : Len} (h : s.LinksFit) (hs : execLmr a n s = .next t) : t.LinksFit := by
  obtain ⟨-, ⟨-, hn, rfl⟩ | ⟨hp, -, -, hc⟩ | ⟨p, hp, hi, -, hm⟩⟩ := execLmr_next.mp hs
  · obtain ⟨hl, hb, -⟩ := h.mu
    obtain ⟨hl', hsize⟩ := h.latch (a := a) hl hn
    exact withMu (s := s.drawLength n) h ⟨hl', hb, rfl, hsize⟩
  · exact lmrEntry (s := s.withMu { s.mu with susp := .none }) h hp hc
  · obtain ⟨hop, -⟩ := MasterUnit.current_lmr hi
    have hop : s.mu.lop = .lmr := by simpa [hp] using hop
    exact mrSegment (s := s.withMu { s.mu with susp := .none }) h
      (fun r hr hu hx => hr.lmrReturn hu (hx.trans hop)) (h.mu.callsMr hp) hm

/-- The start of a `RUN` of `SU[k]`, from which its segments go on. -/
theorem runStart {k : Nat} {u : SlaveUnit} (h : s.LinksFit) (hu : u.Fits s.cfg) :
    (s.withSu k { u with susp := .none }).LinksFit ∧
      ({ u with susp := .none } : SlaveUnit).Fits (s.withSu k { u with susp := .none }).cfg :=
  ⟨h.withSu hu, hu⟩

theorem execSr {a : Addr} (h : s.LinksFit) (hs : execSr a s = .next t) : t.LinksFit := by
  obtain ⟨k, u, -, hk, hc⟩ := execSr_next.mp hs
  have hu := h.su hk
  rcases hc with ⟨hp, rfl⟩ | ⟨p, hp, -, -, hm⟩
  · have hop := hu.lop_of_idle hp
    obtain ⟨hl, hb, -⟩ := hu
    exact h.withSu ⟨hl, hb, .inl hop⟩
  · obtain ⟨hr, hv⟩ := h.runStart (k := k) hu
    obtain ⟨hl, hb, -⟩ := hu
    exact hr.slaveSegment (hv.callsWord hp) (fun r hr hc => hr.completeSlave (hc ▸ hl) hb) hm

theorem execSw {a : Addr} {d : Word} (h : s.LinksFit) (hs : execSw a d s = .next t) : t.LinksFit := by
  obtain ⟨k, u, -, hk, hc⟩ := execSw_next.mp hs
  have hu := h.su hk
  rcases hc with ⟨hp, -, rfl⟩ | ⟨p, hp, -, -, hm⟩
  · have hop := hu.lop_of_idle hp
    obtain ⟨hl, hb, -⟩ := hu
    exact h.withSu ⟨hl, hb, .inl hop⟩
  · obtain ⟨hr, hv⟩ := h.runStart (k := k) hu
    obtain ⟨hl, hb, -⟩ := hu
    exact hr.slaveSegment (hv.callsWord hp) (fun r hr hc => hr.completeSlave (hc ▸ hl) hb) hm

theorem execLsw {a : Addr} {n : Len} (h : s.LinksFit) (hs : execLsw a n s = .next t) : t.LinksFit := by
  obtain ⟨k, u, -, hk, hc⟩ := execLsw_next.mp hs
  have hu := h.su hk
  obtain ⟨hr, hv⟩ := h.runStart (k := k) hu
  rcases hc with ⟨-, hn, rfl⟩ | ⟨hp, -, -, hc⟩ | ⟨p, hp, hi, -, hm⟩
  · obtain ⟨hl, hb, -⟩ := hu
    obtain ⟨hl', hsize⟩ := h.latch (a := a) hl hn
    exact withSu (s := s.drawLength n) h ⟨hl', hb, rfl, hsize⟩
  · exact hr.lswEntry hv hp hc
  · obtain ⟨hop, -⟩ := SlaveUnit.current_lsw hi
    have hop : u.lop = .lsw := by simpa [hp] using hop
    have hw := hv.callsWord hp
    exact hr.slaveSegment hw (fun r hr hc => hr.lswReturn (hc ▸ hw) hop) hm

theorem execLsr {a : Addr} {n : Len} (h : s.LinksFit) (hs : execLsr a n s = .next t) : t.LinksFit := by
  obtain ⟨k, u, -, hk, hc⟩ := execLsr_next.mp hs
  have hu := h.su hk
  obtain ⟨hr, hv⟩ := h.runStart (k := k) hu
  rcases hc with ⟨-, hn, rfl⟩ | ⟨hp, -, -, hc⟩ | ⟨p, hp, hi, -, hm⟩
  · obtain ⟨hl, hb, -⟩ := hu
    obtain ⟨hl', hsize⟩ := h.latch (a := a) hl hn
    exact withSu (s := s.drawLength n) h ⟨hl', hb, rfl, hsize⟩
  · exact hr.lsrEntry hv hp hc
  · obtain ⟨hop, -⟩ := SlaveUnit.current_lsr hi
    have hop : u.lop = .lsr := by simpa [hp] using hop
    have hw := hv.callsWord hp
    exact hr.slaveSegment hw (fun r hr hc => hr.lsrReturn (hc ▸ hw) hop) hm

theorem execIsend (h : s.LinksFit) (hs : execIsend s = .next t) : t.LinksFit := by
  obtain ⟨-, ⟨-, rfl⟩ | ⟨-, -, hp⟩ | ⟨-, -, hp⟩⟩ := execIsend_next.mp hs
  · exact h.withSnd h.snd
  · cases hp
    have hd := (h.withSnd (u := { s.snd with susp := .none }) h.snd).driveIntr true
    exact hd.withSnd hd.snd
  · cases hp
    have hd := (h.withSnd (u := { s.snd with susp := .none }) h.snd).driveIntr false
    exact hd.withSnd hd.snd

theorem execIrecv (h : s.LinksFit) (hs : execIrecv s = .next t) : t.LinksFit := by
  obtain ⟨j, u, -, hj, hc⟩ := execIrecv_next.mp hs
  have hu := h.rcv hj
  rcases hc with ⟨-, rfl⟩ | ⟨-, -, rfl⟩ | ⟨-, -, rfl⟩
  · exact h.withRcv hu
  · exact (h.withRcv (u := { u with susp := .none }) hu).withRcv hu
  · exact (h.withRcv (u := { u with susp := .none }) hu).withRcv hu

theorem exec {i : Instr} (h : s.LinksFit) (hs : exec i s = .next t) : t.LinksFit := by
  cases i with
  | mw a d => exact h.execMw hs
  | mr a => exact h.execMr hs
  | sw a d => exact h.execSw hs
  | sr a => exact h.execSr hs
  | lmw a n => exact h.execLmw hs
  | lmr a n => exact h.execLmr hs
  | lsw a n => exact h.execLsw hs
  | lsr a n => exact h.execLsr hs
  | isend => exact h.execIsend hs
  | irecv => exact h.execIrecv hs

end State.LinksFit

/-- Settles O54: the loops stop at `LEN` and at `DATA_BYTES`, ISSUE latches a length the buffer has, and no other update
writes a link register or a buffer. -/
theorem everyStepKeepsTheLinkRegistersInRange : Obligations.EveryStepKeepsTheLinkRegistersInRange := fun _ _ h hs =>
  step_keeps State.LinksFit
    (order := fun _ _ _ _ h => h)
    (present := fun _ _ _ h hc => h.present hc)
    (operation := fun _ _ _ h he => h.exec he)
    (time := fun _ n h _ _ => h.advance n) h hs

end Sys2Proof.Machine
end

section
/-! The handshake invariant of the pin-accurate block (10_state.md R20; 41_handshake_pin.md R102, R103). The slave side
stands in one of two ways: nobody serves the present transfer, or one unit does and all others are quiet
(`SlaveHandshake.cases`). A move of `MU` within a transfer, a match, a move of the serving unit and a move of a quiet unit
have one rule each. -/

namespace Sys2Proof.Machine

variable {s t : State}

/-! ## The slave side: nobody serves, or one unit does -/

/-- A unit of the PIN variant that serves no transfer. -/
def SlaveUnit.Quiet (u : SlaveUnit) : Prop := u.phase.isPin = true ∧ u.phase.serving = false

theorem SlaveUnit.reset_quiet : SlaveUnit.reset.Quiet := ⟨rfl, rfl⟩

/-- No slave-side unit serves. -/
def State.Quiet (s : State) : Prop := ∀ u ∈ s.su, u.Quiet

/-- Nobody serves the present transfer, so nobody asserts `ack`. -/
def State.NobodyServes (s : State) : Prop := s.bus.ack = false ∧ s.Quiet

/-- `SU[k]`, which is `u`, serves the present transfer, and every other unit is quiet. -/
def State.OnlyServes (s : State) (k : Nat) (u : SlaveUnit) : Prop :=
  s.su[k]? = some u ∧ (u.phase.isPin = true ∧ u.phase.serving = true) ∧ s.ServesWell u ∧
    (s.withSu k SlaveUnit.reset).Quiet

theorem State.withSu_withSu (s : State) (k : Nat) (u v : SlaveUnit) : (s.withSu k u).withSu k v = s.withSu k v := by
  simp [State.withSu]

theorem State.withSu_comm (s : State) {k m : Nat} (u v : SlaveUnit) (h : k ≠ m) :
    (s.withSu k u).withSu m v = (s.withSu m v).withSu k u := by
  simp [State.withSu, List.set_comm _ _ h]

theorem State.Quiet.withSu {k : Nat} {u : SlaveUnit} (h : s.Quiet) (hu : u.Quiet) : (s.withSu k u).Quiet := by
  intro v hv
  rcases List.mem_or_eq_of_mem_set hv with hv | rfl
  · exact h v hv
  · exact hu

/-- A serving unit stands where `MU` has got to: before the master sees `ack`, or with `ack` 1 up to the release. -/
theorem State.ServesWell.place {u : SlaveUnit} (h : s.ServesWell u) (hu : u.phase.serving = true) :
    (s.bus.ack = false ∧ u.phase = .word .service ∧ s.mu.phase.awaitsAck = true) ∨
    (s.bus.ack = true ∧ (u.phase = .word .waitRel ∨ u.phase = .word .ackRel) ∧
      (s.mu.phase.awaitsAck = true ∨ s.mu.phase.holds = true ∨ s.mu.phase.awaitsRelease = true)) := by
  obtain ⟨-, -, -, hsv, hwr, har, -⟩ := h
  unfold SlavePhase.serving at hu
  split at hu
  case h_1 hp => exact .inl ⟨(hsv hp).1, hp, (hsv hp).2⟩
  case h_2 hp => exact .inr ⟨(hwr hp).1, .inl hp, (hwr hp).2⟩
  case h_3 hp => exact .inr ⟨(har hp).1, .inr hp, .inr (.inr (har hp).2)⟩
  case h_4 => cases hu

/-- With one serving unit taken out, no unit of the list serves. -/
theorem countP_serving_set {l : List SlaveUnit} {k : Nat} {u : SlaveUnit} (hk : l[k]? = some u)
    (hu : u.phase.serving = true) :
    (l.set k SlaveUnit.reset).countP (fun v => v.phase.serving) = l.countP (fun v => v.phase.serving) - 1 := by
  obtain ⟨hlt, rfl⟩ := List.getElem?_eq_some_iff.mp hk
  simp [List.countP_set hlt, hu, SlaveUnit.reset_quiet.2]

theorem State.SlaveHandshake.cases (h : s.SlaveHandshake) : s.NobodyServes ∨ ∃ k u, s.OnlyServes k u := by
  obtain ⟨hall, hone, hack⟩ := h
  by_cases hserve : ∃ u ∈ s.su, u.phase.serving = true
  · obtain ⟨u, hmem, hu⟩ := hserve
    obtain ⟨k, hk⟩ := List.mem_iff_getElem?.mp hmem
    obtain ⟨hpin, hwell⟩ := hall u hmem
    have hnone : (s.su.set k SlaveUnit.reset).countP (fun v => v.phase.serving) = 0 := by
      rw [countP_serving_set hk hu]; omega
    refine .inr ⟨k, u, hk, ⟨hpin, hu⟩, hwell hu, fun v hv => ⟨?_, ?_⟩⟩
    · rcases List.mem_or_eq_of_mem_set hv with hv | rfl
      · exact (hall v hv).1
      · rfl
    · simpa using List.countP_eq_zero.mp hnone v hv
  · refine .inl ⟨?_, fun u hu => ⟨(hall u hu).1, by simpa using fun h => hserve ⟨u, hu, h⟩⟩⟩
    by_contra ha
    obtain ⟨u, hu, hp⟩ := List.any_eq_true.mp (hack (by simpa using ha))
    refine hserve ⟨u, hu, ?_⟩
    rcases (by simpa using hp : u.phase = .word .waitRel ∨ u.phase = .word .ackRel) with hp | hp
    · rw [hp]; rfl
    · rw [hp]; rfl

theorem State.NobodyServes.slaveHandshake (h : s.NobodyServes) : s.SlaveHandshake := by
  obtain ⟨hack, hq⟩ := h
  refine ⟨fun u hu => ⟨(hq u hu).1, fun h => ?_⟩, ?_, fun h => ?_⟩
  · rw [(hq u hu).2] at h; cases h
  · exact (List.countP_eq_zero.mpr fun u hu => by simp [(hq u hu).2]).trans_le (Nat.zero_le _)
  · rw [hack] at h; cases h

theorem State.OnlyServes.slaveHandshake {k : Nat} {u : SlaveUnit} (h : s.OnlyServes k u) : s.SlaveHandshake := by
  obtain ⟨hk, ⟨hpin, hu⟩, hwell, hq⟩ := h
  refine ⟨fun v hv => ?_, ?_, fun ha => ?_⟩
  · obtain ⟨m, hm⟩ := List.mem_iff_getElem?.mp hv
    by_cases hkm : k = m
    · obtain rfl : u = v := Option.some.inj (hk.symm.trans (hkm ▸ hm))
      exact ⟨hpin, fun _ => hwell⟩
    · obtain ⟨hp, hs⟩ := hq v (List.mem_of_getElem? ((List.getElem?_set_ne hkm).trans hm))
      exact ⟨hp, fun h => by rw [hs] at h; cases h⟩
  · have hnone : (s.su.set k SlaveUnit.reset).countP (fun v => v.phase.serving) = 0 :=
      List.countP_eq_zero.mpr fun v hv => by simp [(hq v hv).2]
    rw [countP_serving_set hk hu] at hnone
    omega
  · rcases hwell.place hu with ⟨ha', -⟩ | ⟨-, hp, -⟩
    · rw [ha] at ha'; cases ha'
    · exact List.any_eq_true.mpr ⟨u, List.mem_of_getElem? hk, by simpa using hp⟩

/-! ## What the handshake says at a moment -/

namespace State.Handshake

theorem pin (h : s.Handshake) : s.cfg.variant = .pin := by
  obtain ⟨hp, -⟩ := h
  exact hp

theorem master (h : s.Handshake) : s.MasterHandshake := by
  obtain ⟨-, hm, -⟩ := h
  exact hm

theorem slave (h : s.Handshake) : s.NobodyServes ∨ ∃ k u, s.OnlyServes k u := by
  obtain ⟨-, -, hs⟩ := h
  exact hs.cases

/-- No unit has matched where `served` is 0. -/
theorem nobodyServes_of_served (h : s.Handshake) (hs : s.served = false) : s.NobodyServes := by
  rcases h.slave with hn | ⟨k, u, -, -, ⟨hs', -⟩, -⟩
  · exact hn
  · rw [hs] at hs'; cases hs'

/-- A unit that serves is the only one. -/
theorem onlyServes {k : Nat} {u : SlaveUnit} (h : s.Handshake) (hk : s.su[k]? = some u) (hu : u.phase.serving = true) :
    s.OnlyServes k u := by
  rcases h.slave with ⟨-, hq⟩ | ⟨m, v, ho⟩
  · rw [(hq u (List.mem_of_getElem? hk)).2] at hu; cases hu
  · obtain ⟨hm, -, -, hq⟩ := id ho
    by_cases hkm : m = k
    · obtain rfl : v = u := Option.some.inj (hm.symm.trans (hkm ▸ hk))
      exact hkm ▸ ho
    · have hqu := hq u (List.mem_of_getElem? ((List.getElem?_set_ne hkm).trans hk))
      rw [hqu.2] at hu; cases hu

end State.Handshake

/-! ## Moves of `MU` -/

/-- Between two transfers: `ready` is 0 and nobody serves. -/
def State.AtRest (s : State) : Prop := s.cfg.variant = .pin ∧ s.bus.ready = false ∧ s.NobodyServes

/-- The block is at rest while `MU` is outside a transfer or still in its setup, and once `ack` has been released. -/
theorem State.Handshake.atRest (h : s.Handshake) (hw : s.mu.phase.awaitsAck = false) (hh : s.mu.phase.holds = false)
    (ha : s.mu.phase.awaitsRelease = false ∨ s.bus.ack = false) : s.AtRest := by
  obtain ⟨-, hready, -⟩ := h.master
  refine ⟨h.pin, by simpa [hw, hh] using hready, ?_⟩
  rcases h.slave with hn | ⟨k, u, -, ⟨-, hu⟩, hwell, -⟩
  · exact hn
  · rcases hwell.place hu with ⟨-, -, hp⟩ | ⟨h1, -, hp⟩
    · rw [hw] at hp; cases hp
    · simp [hw, hh] at hp
      simp [hp, h1] at ha

namespace State.AtRest

/-- `MU` may go to any place outside a transfer. -/
theorem withMu {v : MasterUnit} (h : s.AtRest) (hp : v.phase.isPin = true) (hd : v.phase.driving = false) :
    (s.withMu v).Handshake := by
  obtain ⟨hv, hr, hn⟩ := h
  obtain ⟨⟨⟨-, hw⟩, hh⟩, -⟩ : _ ∧ v.phase.awaitsRelease = false := by simpa [MasterPhase.driving] using hd
  refine ⟨hv, ⟨hp, ?_, ?_, ?_, ?_⟩, NobodyServes.slaveHandshake (s := s.withMu v) hn⟩
  · simpa [hw, hh] using hr
  · simp [hh]
  · simp [hd]
  · simp [hd]

/-- `MU` may start MW. -/
theorem mwBegin {v : MasterUnit} (h : s.AtRest) : (mwBegin (s.withMu v)).Handshake := by
  obtain ⟨hv, hr, hn⟩ := h
  rw [mwBegin_pin (s := s.withMu v) hv]
  exact ⟨hv, ⟨rfl, hr, nofun, fun _ => rfl, fun _ _ => rfl⟩, NobodyServes.slaveHandshake hn⟩

/-- `MU` may start MR. -/
theorem mrBegin {v : MasterUnit} (h : s.AtRest) : (mrBegin (s.withMu v)).Handshake := by
  obtain ⟨hv, hr, hn⟩ := h
  rw [mrBegin_pin (s := s.withMu v) hv]
  exact ⟨hv, ⟨rfl, hr, nofun, fun _ => rfl, nofun⟩, NobodyServes.slaveHandshake hn⟩

theorem completeMaster {r : Result} (h : s.AtRest) (hs : completeMaster r s = .next t) : t.Handshake := by
  obtain rfl := completeMaster_next.mp hs
  exact h.withMu rfl rfl

theorem lmwContinue {r : Link × Bool} (h : s.AtRest) (hs : lmwContinue r s = .next t) : t.Handshake := by
  unfold Machine.lmwContinue at hs
  split at hs
  · cases hs
    exact h.mwBegin
  · exact completeMaster (s := s.withMu { s.mu with link := r.1 }) h hs

theorem lmrContinue {r : Link × Bool} (h : s.AtRest) (hs : lmrContinue r s = .next t) : t.Handshake := by
  unfold Machine.lmrContinue at hs
  split at hs
  · cases hs
    exact h.mrBegin
  · exact completeMaster (s := s.withMu { s.mu with link := r.1 }) h hs

end State.AtRest

/-- A move of `MU` to `v` inside a transfer, `ready` becoming `b`: the operands stay, `ready` and `ack` are as at the new
place, a serving unit is not left behind, and the word of a read is sampled once, from the line. -/
structure State.TransferMove (s : State) (v : MasterUnit) (b : Bool) : Prop where
  same : v.a = s.mu.a ∧ v.d = s.mu.d ∧ v.pairs = s.mu.pairs
  pin : v.phase.isPin = true
  driving : s.mu.phase.driving = true
  ready : b = (v.phase.awaitsAck || v.phase.holds)
  ack : v.phase.holds = true → s.bus.ack = true
  awaits : s.bus.ack = false → s.mu.phase.awaitsAck = true → v.phase.awaitsAck = true
  passes : s.bus.ack = true → v.phase.awaitsAck = true ∨ v.phase.holds = true ∨ v.phase.awaitsRelease = true
  releases : s.mu.phase.awaitsRelease = true → v.phase.awaitsRelease = true
  samples : v.pairs = some .drive → v.phase.awaitsAck = false →
    s.mu.phase.awaitsAck = false ∧ v.q = s.mu.q ∨ s.bus.data = some v.q

/-- `MU` is inside MW exactly where SR pairs with it. -/
theorem MasterUnit.inMw_iff_pairs (u : MasterUnit) : u.phase.inMw = true ↔ u.pairs = some .capture := by
  cases hp : u.phase <;> simp [MasterUnit.pairs, MasterPhase.inMw, hp]

theorem State.ServesWell.masterMove {v : MasterUnit} {b : Bool} {u : SlaveUnit} (h : s.ServesWell u)
    (hm : s.TransferMove v b) : ((s.driveReady b).withMu v).ServesWell u := by
  obtain ⟨hserved, ha, hpair, hsv, hwr, har, hcap, hdr⟩ := h
  obtain ⟨sa, sd, sp⟩ := hm.same
  refine ⟨hserved, ha.trans sa.symm, sp.trans hpair, fun hp => ?_, fun hp => ?_, fun hp => ?_, fun hd => ?_,
    fun hd => ?_⟩
  · exact ⟨(hsv hp).1, hm.awaits (hsv hp).1 (hsv hp).2⟩
  · exact ⟨(hwr hp).1, hm.passes (hwr hp).1⟩
  · exact ⟨(har hp).1, hm.releases (har hp).2⟩
  · exact (hcap hd).trans sd.symm
  · refine ⟨(hdr hd).1, fun hw => ?_⟩
    rcases hm.samples (sp.trans (hd ▸ hpair)) hw with ⟨hw', hq⟩ | hq
    · exact hq.trans ((hdr hd).2 hw')
    · exact Option.some.inj (hq.symm.trans (hdr hd).1)

theorem State.Handshake.masterMove {v : MasterUnit} {b : Bool} (h : s.Handshake) (hm : s.TransferMove v b) :
    ((s.driveReady b).withMu v).Handshake := by
  obtain ⟨sa, sd, sp⟩ := hm.same
  obtain ⟨-, -, -, haddr, hdata⟩ := h.master
  refine ⟨h.pin, ⟨hm.pin, hm.ready, hm.ack, fun _ => ?_, fun _ hw => ?_⟩, ?_⟩
  · exact (haddr hm.driving).trans (congrArg some sa.symm)
  · have hw' : s.mu.phase.inMw = true := s.mu.inMw_iff_pairs.mpr (sp ▸ v.inMw_iff_pairs.mp hw)
    exact (hdata hm.driving hw').trans (congrArg some sd.symm)
  · rcases h.slave with hn | ⟨k, u, hk, hu, hwell, hq⟩
    · exact NobodyServes.slaveHandshake (s := (s.driveReady b).withMu v) hn
    · exact OnlyServes.slaveHandshake (s := (s.driveReady b).withMu v) ⟨hk, hu, hwell.masterMove hm, hq⟩

namespace State.TransferMove

variable {w : Susp}

/-- MW waits for `ack` while it is 0. -/
theorem mw_wait (hp : s.mu.phase = .mw .setup ∨ s.mu.phase = .mw .waitAck) (ha : s.bus.ack = false) :
    s.TransferMove { s.mu with phase := .mw .waitAck, susp := w } true := by
  rcases hp with hp | hp <;> constructor <;>
    simp [hp, ha, MasterUnit.pairs, MasterPhase.isPin, MasterPhase.driving, MasterPhase.awaitsAck,
    MasterPhase.holds, MasterPhase.awaitsRelease]

/-- MW sees `ack` 1 and holds. -/
theorem mw_hold (hp : s.mu.phase = .mw .waitAck) (ha : s.bus.ack = true) :
    s.TransferMove { s.mu with phase := .mw .hold, susp := w } true := by
  constructor <;>
    simp [hp, ha, MasterUnit.pairs, MasterPhase.isPin, MasterPhase.driving, MasterPhase.awaitsAck,
    MasterPhase.holds, MasterPhase.awaitsRelease]

/-- MW takes `ready` back and waits for the release while `ack` is 1. -/
theorem mw_release (hp : s.mu.phase = .mw .hold ∨ s.mu.phase = .mw .waitRel) (ha : s.bus.ack = true) :
    s.TransferMove { s.mu with phase := .mw .waitRel, susp := w } false := by
  rcases hp with hp | hp <;> constructor <;>
    simp [hp, ha, MasterUnit.pairs, MasterPhase.isPin, MasterPhase.driving, MasterPhase.awaitsAck,
    MasterPhase.holds, MasterPhase.awaitsRelease]

/-- MR waits for `ack` while it is 0. -/
theorem mr_wait (hp : s.mu.phase = .mr .setup ∨ s.mu.phase = .mr .waitAck) (ha : s.bus.ack = false) :
    s.TransferMove { s.mu with phase := .mr .waitAck, susp := w } true := by
  rcases hp with hp | hp <;> constructor <;>
    simp [hp, ha, MasterUnit.pairs, MasterPhase.isPin, MasterPhase.driving, MasterPhase.awaitsAck,
    MasterPhase.holds, MasterPhase.awaitsRelease]

/-- MR sees `ack` 1 and holds, having sampled the word on the line. -/
theorem mr_hold {x : Word} (hx : s.bus.data = some x) (hp : s.mu.phase = .mr .waitAck) (ha : s.bus.ack = true) :
    s.TransferMove { s.mu with phase := .mr .hold, susp := w, q := x } true := by
  constructor <;>
    simp [hp, ha, MasterUnit.pairs, MasterPhase.isPin, MasterPhase.driving, MasterPhase.awaitsAck,
    MasterPhase.holds, MasterPhase.awaitsRelease, hx]

/-- MR takes `ready` back and waits for the release while `ack` is 1. -/
theorem mr_release (hp : s.mu.phase = .mr .hold ∨ s.mu.phase = .mr .waitRel) (ha : s.bus.ack = true) :
    s.TransferMove { s.mu with phase := .mr .waitRel, susp := w } false := by
  rcases hp with hp | hp <;> constructor <;>
    simp [hp, ha, MasterUnit.pairs, MasterPhase.isPin, MasterPhase.driving, MasterPhase.awaitsAck,
    MasterPhase.holds, MasterPhase.awaitsRelease]

end State.TransferMove

/-- Driving the value the line has changes nothing. -/
theorem State.driveReady_self (s : State) : s.driveReady s.bus.ready = s := rfl

namespace State.Handshake

variable {ret : State → Answer}

/-- MW after its setup or in its wait, `ready` being 1 and, after the setup, `ack` 0. -/
theorem mwAwaitAck (h : s.Handshake) (hp : s.mu.phase = .mw .setup ∧ s.bus.ack = false ∨ s.mu.phase = .mw .waitAck)
    (hs : mwAwaitAck (s.driveReady true) = .next t) : t.Handshake := by
  rcases mwAwaitAck_next.mp hs with ⟨ha, rfl⟩ | ⟨ha, rfl⟩
  · have hp : s.mu.phase = .mw .waitAck := hp.resolve_left fun ⟨_, ha'⟩ => by simp_all
    exact h.masterMove (.mw_hold hp ha)
  · exact h.masterMove (.mw_wait (hp.imp_left And.left) ha)

/-- MW after its hold or in its wait, `ready` being 0: while `ack` is 1 it waits on, then it returns from a block at
rest. -/
theorem mwRelease (hret : ∀ r, r.AtRest → ret r = .next t → t.Handshake) (h : s.Handshake)
    (hp : s.mu.phase = .mw .hold ∨ s.mu.phase = .mw .waitRel)
    (hs : mwRelease ret (s.driveReady false) = .next t) : t.Handshake := by
  rcases mwRelease_next.mp hs with ⟨ha, hr⟩ | ⟨ha, rfl⟩
  · have hp : s.mu.phase = .mw .waitRel := hp.resolve_left fun hp => by
      obtain ⟨-, -, hack, -⟩ := h.master
      have := hack (by rw [hp]; rfl)
      simp_all
    obtain ⟨hv, -, hn⟩ := h.atRest (by rw [hp]; rfl) (by rw [hp]; rfl) (.inr ha)
    refine hret _ ?_ hr
    exact ⟨hv, rfl, hn⟩
  · exact h.masterMove (.mw_release hp ha)

theorem mwSegment {p : MwPoint} (hret : ∀ r, r.AtRest → ret r = .next t → t.Handshake) (h : s.Handshake)
    (hp : s.mu.phase = .mw p) (hs : mwSegment ret p s = .next t) : t.Handshake := by
  obtain ⟨hpin, hready, -⟩ := h.master
  rcases mwSegment_next hs with
    ⟨rfl, rfl⟩ | (⟨rfl, ha⟩ | ⟨rfl, ha⟩) | (⟨rfl, hr⟩ | ⟨rfl, hr⟩) | ⟨rfl, -⟩ | ⟨rfl, -⟩ | ⟨rfl, -⟩
  · exact (h.atRest (by rw [hp]; rfl) (by rw [hp]; rfl) (.inl (by rw [hp]; rfl))).mwBegin
  · obtain ⟨-, -, ha', -⟩ := h.atRest (by rw [hp]; rfl) (by rw [hp]; rfl) (.inl (by rw [hp]; rfl))
    exact h.mwAwaitAck (.inl ⟨hp, ha'⟩) ha
  · have hone : s.bus.ready = true := by rw [hready, hp]; rfl
    exact h.mwAwaitAck (.inr hp) (by rwa [← hone, State.driveReady_self])
  · exact mwRelease hret h (.inl hp) hr
  · have hzero : s.bus.ready = false := by rw [hready, hp]; rfl
    exact mwRelease hret h (.inr hp) (by rwa [← hzero, State.driveReady_self])
  · rw [hp] at hpin; cases hpin
  · rw [hp] at hpin; cases hpin
  · rw [hp] at hpin; cases hpin

/-- MR after its setup or in its wait, `ready` being 1 and, after the setup, `ack` 0. -/
theorem mrAwaitAck (h : s.Handshake) (hp : s.mu.phase = .mr .setup ∧ s.bus.ack = false ∨ s.mu.phase = .mr .waitAck)
    (hs : mrAwaitAck (s.driveReady true) = .next t) : t.Handshake := by
  rcases mrAwaitAck_next.mp hs with ⟨ha, x, hx, rfl⟩ | ⟨ha, rfl⟩
  · have hp : s.mu.phase = .mr .waitAck := hp.resolve_left fun ⟨_, ha'⟩ => by simp_all
    exact h.masterMove (.mr_hold hx hp ha)
  · exact h.masterMove (.mr_wait (hp.imp_left And.left) ha)

/-- MR after its hold or in its wait, `ready` being 0: while `ack` is 1 it waits on, then it returns from a block at
rest. -/
theorem mrRelease (hret : ∀ r, r.AtRest → ret r = .next t → t.Handshake) (h : s.Handshake)
    (hp : s.mu.phase = .mr .hold ∨ s.mu.phase = .mr .waitRel)
    (hs : mrRelease ret (s.driveReady false) = .next t) : t.Handshake := by
  rcases mrRelease_next.mp hs with ⟨ha, hr⟩ | ⟨ha, rfl⟩
  · have hp : s.mu.phase = .mr .waitRel := hp.resolve_left fun hp => by
      obtain ⟨-, -, hack, -⟩ := h.master
      have := hack (by rw [hp]; rfl)
      simp_all
    obtain ⟨hv, -, hn⟩ := h.atRest (by rw [hp]; rfl) (by rw [hp]; rfl) (.inr ha)
    refine hret _ ?_ hr
    exact ⟨hv, rfl, hn⟩
  · exact h.masterMove (.mr_release hp ha)

theorem mrSegment {p : MrPoint} (hret : ∀ r, r.AtRest → ret r = .next t → t.Handshake) (h : s.Handshake)
    (hp : s.mu.phase = .mr p) (hs : mrSegment ret p s = .next t) : t.Handshake := by
  obtain ⟨hpin, hready, -⟩ := h.master
  rcases mrSegment_next hs with
    ⟨rfl, rfl⟩ | (⟨rfl, ha⟩ | ⟨rfl, ha⟩) | (⟨rfl, hr⟩ | ⟨rfl, hr⟩) | ⟨rfl, -⟩ | ⟨rfl, -⟩ | ⟨rfl, -⟩
  · exact (h.atRest (by rw [hp]; rfl) (by rw [hp]; rfl) (.inl (by rw [hp]; rfl))).mrBegin
  · obtain ⟨-, -, ha', -⟩ := h.atRest (by rw [hp]; rfl) (by rw [hp]; rfl) (.inl (by rw [hp]; rfl))
    exact h.mrAwaitAck (.inl ⟨hp, ha'⟩) ha
  · have hone : s.bus.ready = true := by rw [hready, hp]; rfl
    exact h.mrAwaitAck (.inr hp) (by rwa [← hone, State.driveReady_self])
  · exact mrRelease hret h (.inl hp) hr
  · have hzero : s.bus.ready = false := by rw [hready, hp]; rfl
    exact mrRelease hret h (.inr hp) (by rwa [← hzero, State.driveReady_self])
  · rw [hp] at hpin; cases hpin
  · rw [hp] at hpin; cases hpin
  · rw [hp] at hpin; cases hpin

end State.Handshake

/-! ## Moves of a slave-side unit -/

/-- A quiet unit may take the place of one that does not serve. -/
theorem State.Handshake.replace {k : Nat} {u v : SlaveUnit} (h : s.Handshake) (hk : s.su[k]? = some u)
    (hu : u.phase.serving = false) (hv : v.Quiet) : (s.withSu k v).Handshake := by
  refine ⟨h.pin, h.master, ?_⟩
  rcases h.slave with ⟨ha, hq⟩ | ⟨m, w, hm, hw, hwell, hq⟩
  · exact NobodyServes.slaveHandshake ⟨ha, hq.withSu hv⟩
  · have hkm : k ≠ m := by
      rintro rfl
      obtain rfl : w = u := Option.some.inj (hm.symm.trans hk)
      rw [hu] at hw
      cases hw.2
    have hq' := hq.withSu (k := k) hv
    rw [State.withSu_comm _ _ _ hkm.symm] at hq'
    exact OnlyServes.slaveHandshake (k := m) ⟨by simpa [hkm] using hm, hw, hwell, hq'⟩

/-- `SU[k]` takes no part in the present transfer: with an idle unit in its place the handshake holds. -/
def State.FreeAt (s : State) (k : Nat) : Prop := k < s.su.length ∧ (s.withSu k SlaveUnit.reset).Handshake

theorem State.Handshake.freeAt {k : Nat} {u : SlaveUnit} (h : s.Handshake) (hk : s.su[k]? = some u)
    (hu : u.phase.serving = false) : s.FreeAt k :=
  ⟨(List.getElem?_eq_some_iff.mp hk).1, h.replace hk hu SlaveUnit.reset_quiet⟩

/-- While `ready` is 1 and `ack` is 0, `MU` waits for `ack`. -/
theorem State.MasterHandshake.awaitsAck (h : s.MasterHandshake) (hr : s.bus.ready = true) (ha : s.bus.ack = false) :
    s.mu.phase.awaitsAck = true := by
  obtain ⟨-, hready, hack, -⟩ := h
  cases hh : s.mu.phase.holds with
  | true => rw [hack hh] at ha; cases ha
  | false => simpa [hr, hh] using hready.symm

/-- While `MU` waits for `ack`, it has driven its address and pairs with one direction. -/
theorem MasterUnit.driving_pairs_of_awaitsAck {u : MasterUnit} (h : u.phase.awaitsAck = true) :
    u.phase.driving = true ∧ u.pairs ≠ none := by
  unfold MasterPhase.awaitsAck at h
  split at h
  case h_1 hp => simp [MasterPhase.driving, MasterPhase.awaitsAck, MasterUnit.pairs, hp]
  case h_2 hp => simp [MasterPhase.driving, MasterPhase.awaitsAck, MasterUnit.pairs, hp]
  case h_3 => cases h

/-- The one match of a transfer: nobody else serves, and `MU` waits for `ack`. -/
theorem State.MasterHandshake.serve {k : Nat} {v : SlaveUnit} (h : s.MasterHandshake) (hvar : s.cfg.variant = .pin)
    (hk : k < s.su.length) (hq : (s.withSu k SlaveUnit.reset).Quiet) (hack : s.bus.ack = false)
    (hw : s.mu.phase.awaitsAck = true) (hserved : s.served = true) (hp : v.phase = .word .service)
    (ha : v.a = s.mu.a) (hpair : s.mu.pairs = some v.dir) (hcap : v.dir = .capture → v.q = s.mu.d)
    (hdrv : v.dir = .drive → s.bus.data = some v.d) : (s.withSu k v).Handshake := by
  refine ⟨hvar, h, OnlyServes.slaveHandshake (k := k) (u := v) ⟨?_, ?_, ?_, ?_⟩⟩
  · simp [hk]
  · rw [hp]; exact ⟨rfl, rfl⟩
  · refine ⟨hserved, ha, hpair, fun _ => ⟨hack, hw⟩, ?_, ?_, hcap, fun hd => ⟨hdrv hd, ?_⟩⟩
    · simp [hp]
    · simp [hp]
    · simp [hw]
  · rwa [State.withSu_withSu]

namespace State.FreeAt

variable {k : Nat} {u : SlaveUnit}

/-- A quiet unit may take the place of `SU[k]`. -/
theorem withSu (h : s.FreeAt k) (hu : u.Quiet) : (s.withSu k u).Handshake := by
  obtain ⟨hk, hh⟩ := h
  rw [← State.withSu_withSu]
  exact hh.replace (by simp [hk]) SlaveUnit.reset_quiet.2 hu

theorem servePin (h : s.FreeAt k) (hr : s.bus.ready = true) (ha : s.bus.address = some u.a)
    (hs : servePin k u s = .next t) : t.Handshake := by
  obtain ⟨hserved, hpair, hcase⟩ := servePin_next.mp hs
  obtain ⟨hk, hh⟩ := h
  obtain ⟨hack, hq⟩ := hh.nobodyServes_of_served hserved
  have hm : s.MasterHandshake := hh.master
  have hw := hm.awaitsAck hr hack
  obtain ⟨hd, hn⟩ := MasterUnit.driving_pairs_of_awaitsAck hw
  have hpair : s.mu.pairs = some u.dir := hpair.resolve_right hn
  obtain ⟨hisPin, hready, hold, haddr, hdata⟩ := hm
  have ha : u.a = s.mu.a := Option.some.inj (ha.symm.trans (haddr hd))
  rcases hcase with ⟨hdir, w, hw', rfl⟩ | ⟨hdir, rfl⟩
  · have hwd : w = s.mu.d :=
      Option.some.inj (hw'.symm.trans (hdata hd (s.mu.inMw_iff_pairs.mpr (hdir ▸ hpair))))
    exact MasterHandshake.serve (s := s.markServed true) ⟨hisPin, hready, hold, haddr, hdata⟩ hh.pin hk hq hack hw rfl
      rfl ha hpair (fun _ => hwd) (by simp [hdir])
  · have hmr : s.mu.phase.inMw = true → False := fun hi => by
      have := s.mu.inMw_iff_pairs.mp hi
      simp_all
    exact MasterHandshake.serve (s := (s.markServed true).driveData u.d)
      ⟨hisPin, hready, hold, haddr, fun _ hi => (hmr hi).elim⟩ hh.pin hk hq hack hw rfl
      rfl ha hpair (by simp [hdir]) (fun _ => rfl)

theorem suAwaitReady (h : s.FreeAt k) (hs : suAwaitReady k u s = .next t) : t.Handshake := by
  rcases suAwaitReady_next.mp hs with ⟨hr, ht⟩ | ⟨-, rfl⟩
  · obtain ⟨x, hx, ⟨rfl, hm⟩ | ⟨-, rfl⟩⟩ := testPin_next.mp ht
    · exact h.servePin hr hx hm
    · exact h.withSu ⟨rfl, rfl⟩
  · exact h.withSu ⟨rfl, rfl⟩

theorem slaveBegin (h : s.FreeAt k) (hs : slaveBegin k u s = .next t) : t.Handshake := by
  rcases slaveBegin_next.mp hs with ⟨-, ha⟩ | ⟨hv, -⟩
  · exact h.suAwaitReady ha
  · obtain ⟨-, hh⟩ := h
    cases hv.symm.trans hh.pin

theorem completeSlave {r : Result} (h : s.FreeAt k) (hs : completeSlave k r u s = .next t) : t.Handshake := by
  obtain rfl := completeSlave_next.mp hs
  exact h.withSu ⟨rfl, rfl⟩

theorem lswContinue {r : Link × Bool} (h : s.FreeAt k) (hs : lswContinue k r u s = .next t) : t.Handshake := by
  unfold Machine.lswContinue at hs
  split at hs
  · exact h.slaveBegin hs
  · exact h.completeSlave hs

theorem lsrContinue {r : Link × Bool} (h : s.FreeAt k) (hs : lsrContinue k r u s = .next t) : t.Handshake := by
  unfold Machine.lsrContinue at hs
  split at hs
  · exact h.slaveBegin hs
  · exact h.completeSlave hs

end State.FreeAt

/-- While `MU` waits for the release it does not hold. -/
theorem MasterPhase.holds_of_awaitsRelease {p : MasterPhase} (h : p.awaitsRelease = true) : p.holds = false := by
  unfold MasterPhase.awaitsRelease at h
  split at h
  case h_1 => rfl
  case h_2 => rfl
  case h_3 => cases h

namespace State.Handshake

variable {k : Nat} {u : SlaveUnit}

/-- The serving unit goes on to `v`, a place in which it still serves, driving `ack` to `b`. -/
theorem goesOn {v : SlaveUnit} {b : Bool} (h : s.Handshake) (hk : s.su[k]? = some u) (hu : u.phase.serving = true)
    (hb : s.mu.phase.holds = true → b = true) (hv : v.phase.isPin = true ∧ v.phase.serving = true)
    (hwell : (s.driveAck b).ServesWell v) : ((s.driveAck b).withSu k v).Handshake := by
  obtain ⟨hisPin, hready, -, hlines⟩ := h.master
  obtain ⟨-, -, -, hq⟩ := h.onlyServes hk hu
  obtain ⟨hlt, -⟩ := List.getElem?_eq_some_iff.mp hk
  have ho : ((s.driveAck b).withSu k v).OnlyServes k v :=
    ⟨by simp [hlt], hv, hwell, by rw [State.withSu_withSu]; exact hq⟩
  exact ⟨h.pin, ⟨hisPin, hready, hb, hlines⟩, ho.slaveHandshake⟩

/-- The service ends: `ack` rises, and `ready` being 1 the unit waits for the release. -/
theorem serviceEnd (h : s.Handshake) (hk : s.su[k]? = some u) (hp : u.phase = .word .service)
    (hs : suAwaitRelease k u (s.driveAck true) = .next t) : t.Handshake := by
  obtain ⟨-, hready, -⟩ := h.master
  have hu : u.phase.serving = true := by rw [hp]; rfl
  obtain ⟨-, -, ⟨hserved, ha, hpair, hsv, -, -, hword⟩, -⟩ := h.onlyServes hk hu
  obtain ⟨-, hw⟩ := hsv hp
  rcases suAwaitRelease_next.mp hs with ⟨hr, -⟩ | ⟨-, rfl⟩
  · rw [hw] at hready
    cases hr.symm.trans hready
  · exact h.goesOn (v := { u with phase := .word .waitRel, susp := _ }) hk hu (fun _ => rfl) ⟨rfl, rfl⟩
      ⟨hserved, ha, hpair, nofun, fun _ => ⟨rfl, .inl hw⟩, nofun, hword⟩

/-- The serving unit sees `ready` 0 and goes on to its release, or waits on. -/
theorem awaitRelease (h : s.Handshake) (hk : s.su[k]? = some u) (hp : u.phase = .word .waitRel)
    (hs : suAwaitRelease k u s = .next t) : t.Handshake := by
  obtain ⟨-, hready, hhold, -⟩ := h.master
  have hu : u.phase.serving = true := by rw [hp]; rfl
  obtain ⟨-, -, ⟨hserved, ha, hpair, -, hwr, -, hword⟩, -⟩ := h.onlyServes hk hu
  obtain ⟨hack, hw⟩ := hwr hp
  rcases suAwaitRelease_next.mp hs with ⟨hr, rfl⟩ | ⟨-, rfl⟩
  · have hrel : s.mu.phase.awaitsRelease = true := by simp_all
    exact h.goesOn (v := { u with phase := .word .ackRel, susp := _ }) (b := s.bus.ack) hk hu hhold ⟨rfl, rfl⟩
      ⟨hserved, ha, hpair, nofun, nofun, fun _ => ⟨hack, hrel⟩, hword⟩
  · exact h.goesOn (v := { u with phase := .word .waitRel, susp := _ }) (b := s.bus.ack) hk hu hhold ⟨rfl, rfl⟩
      ⟨hserved, ha, hpair, nofun, fun _ => ⟨hack, hw⟩, nofun, hword⟩

/-- The release: `ack` falls, and the unit takes no part in a transfer any more. -/
theorem releaseEnd (h : s.Handshake) (hk : s.su[k]? = some u) (hp : u.phase = .word .ackRel) :
    (s.driveAck false).FreeAt k := by
  obtain ⟨hisPin, hready, -, hlines⟩ := h.master
  obtain ⟨-, -, ⟨-, -, -, -, -, har, -⟩, hq⟩ := h.onlyServes hk (by rw [hp]; rfl)
  obtain ⟨-, hrel⟩ := har hp
  have hhold := MasterPhase.holds_of_awaitsRelease hrel
  refine ⟨(List.getElem?_eq_some_iff.mp hk).1, h.pin, ⟨hisPin, hready, ?_, hlines⟩, ?_⟩
  · simp [hhold]
  · exact NobodyServes.slaveHandshake ⟨rfl, hq⟩

/-- A segment of SR or SW: a quiet unit matches or waits on, a serving unit goes on to its release. -/
theorem slaveSegment {ret : SlaveUnit → State → Answer} {p : SlavePoint}
    (hret : ∀ r, r.FreeAt k → ret u r = .next t → t.Handshake) (h : s.Handshake) (hk : s.su[k]? = some u)
    (hp : u.phase = .word p) (hs : slaveSegment k ret p u s = .next t) : t.Handshake := by
  obtain ⟨-, -, hall, -⟩ := id h
  obtain ⟨hpin, -⟩ := hall u (List.mem_of_getElem? hk)
  rcases slaveSegment_next hs with
    ⟨rfl, hb⟩ | ⟨hpt, ha⟩ | (⟨rfl, hr⟩ | ⟨rfl, hr⟩) | ⟨rfl, hr⟩ | ⟨rfl, -⟩ | ⟨rfl, -⟩ | ⟨rfl, -⟩
  · exact (h.freeAt hk (by rw [hp]; rfl)).slaveBegin hb
  · refine (h.freeAt hk ?_).suAwaitReady ha
    rcases hpt with rfl | rfl
    · rw [hp]; rfl
    · rw [hp]; rfl
  · exact h.serviceEnd hk hp hr
  · exact h.awaitRelease hk hp hr
  · exact hret _ (h.releaseEnd hk hp) hr
  · rw [hp] at hpin; cases hpin
  · rw [hp] at hpin; cases hpin
  · rw [hp] at hpin; cases hpin

end State.Handshake

/-! ## What the handshake does not look at -/

/-- The registers of a slave-side unit that the handshake looks at, the rest as at reset. -/
def SlaveUnit.shown (u : SlaveUnit) : SlaveUnit :=
  { u with susp := .none, lop := .none, link := Link.reset, port := Port.empty }

theorem State.slaveHandshake_shown :
    ({ s with su := s.su.map SlaveUnit.shown } : State).SlaveHandshake ↔ s.SlaveHandshake := by
  simp only [State.SlaveHandshake, List.forall_mem_map, List.countP_map, List.any_map]
  exact Iff.rfl

/-- The handshake holds of any list of units that show the same. -/
theorem State.Handshake.of_shown {l : List SlaveUnit} (h : s.Handshake)
    (hl : l.map SlaveUnit.shown = s.su.map SlaveUnit.shown) : ({ s with su := l } : State).Handshake := by
  obtain ⟨hp, hm, hs⟩ := h
  refine ⟨hp, hm, State.slaveHandshake_shown.mp ?_⟩
  have hs' := State.slaveHandshake_shown.mpr hs
  rwa [← hl] at hs'

namespace State.Handshake

/-- The handshake holds with a unit in place of one that shows the same. -/
theorem withSu_shown {k : Nat} {u v : SlaveUnit} (h : s.Handshake) (hk : s.su[k]? = some u) (hv : v.shown = u.shown) :
    (s.withSu k v).Handshake := by
  refine h.of_shown ?_
  obtain ⟨hlt, rfl⟩ := List.getElem?_eq_some_iff.mp hk
  rw [List.map_set, hv, ← List.map_set, List.set_getElem_self]

theorem wake (w : Susp) (h : s.Handshake) : (s.wake w).Handshake :=
  of_shown (s := { s with mu := { s.mu with susp := Susp.clear w s.mu.susp } }) h (by simp [SlaveUnit.shown])

theorem driveIntr (v : Bool) (h : s.Handshake) : (s.driveIntr v).Handshake := by
  unfold State.driveIntr
  split
  · exact wake .edge (s := { s with intr := true }) h
  · exact h

theorem popCommand (u : UnitId) (h : s.Handshake) : (s.popCommand u).Handshake := by
  unfold State.popCommand
  split
  case h_1 => exact h
  case h_2 k =>
    split
    case h_1 v hv => exact h.withSu_shown hv rfl
    case h_2 => exact h
  case h_3 => exact h
  case h_4 j =>
    split
    · exact h
    · exact h

/-! ## The operations -/

/-- An idle `MU`, or one at the entry of a link-level operation, is outside every transfer. -/
theorem atRest_outside (h : s.Handshake)
    (hp : s.mu.phase = .idle ∨ s.mu.phase = .lmwStart ∨ s.mu.phase = .lmrStart) : s.AtRest := by
  rcases hp with hp | hp | hp <;> exact h.atRest (by rw [hp]; rfl) (by rw [hp]; rfl) (.inl (by rw [hp]; rfl))

theorem execMw {a : Addr} {d : Word} (h : s.Handshake) (hs : execMw a d s = .next t) : t.Handshake := by
  obtain ⟨-, ⟨hp, -, rfl⟩ | ⟨p, hp, -, -, hm⟩⟩ := execMw_next.mp hs
  · exact (h.atRest_outside (.inl hp)).withMu rfl rfl
  · exact mwSegment (s := s.withMu { s.mu with susp := .none }) (fun _ hr => hr.completeMaster) h hp hm

theorem execMr {a : Addr} (h : s.Handshake) (hs : execMr a s = .next t) : t.Handshake := by
  obtain ⟨-, ⟨hp, rfl⟩ | ⟨p, hp, -, -, hm⟩⟩ := execMr_next.mp hs
  · exact (h.atRest_outside (.inl hp)).withMu rfl rfl
  · exact mrSegment (s := s.withMu { s.mu with susp := .none }) (fun _ hr => hr.completeMaster) h hp hm

theorem execLmw {a : Addr} {n : Len} (h : s.Handshake) (hs : execLmw a n s = .next t) : t.Handshake := by
  obtain ⟨-, ⟨hp, -, rfl⟩ | ⟨hp, -, -, hc⟩ | ⟨p, hp, -, -, hm⟩⟩ := execLmw_next.mp hs
  · exact AtRest.withMu (s := s.drawLength n) (h.atRest_outside (.inl hp)) rfl rfl
  · exact AtRest.lmwContinue (s := s.withMu { s.mu with susp := .none }) (h.atRest_outside (.inr (.inl hp))) hc
  · exact mwSegment (s := s.withMu { s.mu with susp := .none }) (fun _ hr => hr.lmwContinue) h hp hm

theorem execLmr {a : Addr} {n : Len} (h : s.Handshake) (hs : execLmr a n s = .next t) : t.Handshake := by
  obtain ⟨-, ⟨hp, -, rfl⟩ | ⟨hp, -, -, hc⟩ | ⟨p, hp, -, -, hm⟩⟩ := execLmr_next.mp hs
  · exact AtRest.withMu (s := s.drawLength n) (h.atRest_outside (.inl hp)) rfl rfl
  · exact AtRest.lmrContinue (s := s.withMu { s.mu with susp := .none }) (h.atRest_outside (.inr (.inr hp))) hc
  · exact mrSegment (s := s.withMu { s.mu with susp := .none }) (fun _ hr => hr.lmrContinue) h hp hm

/-- The start of a `RUN` of `SU[k]`, from which its segments go on. -/
theorem runStart {k : Nat} {u : SlaveUnit} (h : s.Handshake) (hk : s.su[k]? = some u) :
    (s.withSu k { u with susp := .none }).Handshake ∧
      (s.withSu k { u with susp := .none }).su[k]? = some { u with susp := .none } := by
  obtain ⟨hlt, -⟩ := List.getElem?_eq_some_iff.mp hk
  exact ⟨h.withSu_shown hk rfl, by simp [hlt]⟩

theorem execSr {a : Addr} (h : s.Handshake) (hs : execSr a s = .next t) : t.Handshake := by
  obtain ⟨k, u, -, hk, hc⟩ := execSr_next.mp hs
  obtain ⟨hr, hk'⟩ := h.runStart hk
  rcases hc with ⟨hp, rfl⟩ | ⟨p, hp, -, -, hm⟩
  · exact h.replace hk (by rw [hp]; rfl) ⟨rfl, rfl⟩
  · exact slaveSegment (fun _ hf => hf.completeSlave) hr hk' hp hm

theorem execSw {a : Addr} {d : Word} (h : s.Handshake) (hs : execSw a d s = .next t) : t.Handshake := by
  obtain ⟨k, u, -, hk, hc⟩ := execSw_next.mp hs
  obtain ⟨hr, hk'⟩ := h.runStart hk
  rcases hc with ⟨hp, -, rfl⟩ | ⟨p, hp, -, -, hm⟩
  · exact h.replace hk (by rw [hp]; rfl) ⟨rfl, rfl⟩
  · exact slaveSegment (fun _ hf => hf.completeSlave) hr hk' hp hm

theorem execLsw {a : Addr} {n : Len} (h : s.Handshake) (hs : execLsw a n s = .next t) : t.Handshake := by
  obtain ⟨k, u, -, hk, hc⟩ := execLsw_next.mp hs
  obtain ⟨hr, hk'⟩ := h.runStart hk
  rcases hc with ⟨hp, -, rfl⟩ | ⟨hp, -, -, hc⟩ | ⟨p, hp, -, -, hm⟩
  · exact replace (s := s.drawLength n) h hk (by rw [hp]; rfl) ⟨rfl, rfl⟩
  · exact (hr.freeAt hk' (by rw [hp]; rfl)).lswContinue hc
  · exact slaveSegment (fun _ hf => hf.lswContinue) hr hk' hp hm

theorem execLsr {a : Addr} {n : Len} (h : s.Handshake) (hs : execLsr a n s = .next t) : t.Handshake := by
  obtain ⟨k, u, -, hk, hc⟩ := execLsr_next.mp hs
  obtain ⟨hr, hk'⟩ := h.runStart hk
  rcases hc with ⟨hp, -, rfl⟩ | ⟨hp, -, -, hc⟩ | ⟨p, hp, -, -, hm⟩
  · exact replace (s := s.drawLength n) h hk (by rw [hp]; rfl) ⟨rfl, rfl⟩
  · exact (hr.freeAt hk' (by rw [hp]; rfl)).lsrContinue hc
  · exact slaveSegment (fun _ hf => hf.lsrContinue) hr hk' hp hm

theorem execIsend (h : s.Handshake) (hs : execIsend s = .next t) : t.Handshake := by
  obtain ⟨-, ⟨-, rfl⟩ | ⟨-, -, hp⟩ | ⟨-, -, hp⟩⟩ := execIsend_next.mp hs
  · exact h
  · cases hp
    exact driveIntr true (s := s.withSnd { s.snd with susp := .none }) h
  · cases hp
    exact driveIntr false (s := s.withSnd { s.snd with susp := .none }) h

theorem execIrecv (h : s.Handshake) (hs : execIrecv s = .next t) : t.Handshake := by
  obtain ⟨j, u, -, -, ⟨-, rfl⟩ | ⟨-, -, rfl⟩ | ⟨-, -, rfl⟩⟩ := execIrecv_next.mp hs
  · exact h
  · exact h
  · exact h

theorem exec {i : Instr} (h : s.Handshake) (hs : exec i s = .next t) : t.Handshake := by
  cases i with
  | mw a d => exact h.execMw hs
  | mr a => exact h.execMr hs
  | sw a d => exact h.execSw hs
  | sr a => exact h.execSr hs
  | lmw a n => exact h.execLmw hs
  | lmr a n => exact h.execLmr hs
  | lsw a n => exact h.execLsw hs
  | lsr a n => exact h.execLsr hs
  | isend => exact h.execIsend hs
  | irecv => exact h.execIrecv hs

end State.Handshake

/-- Settles O55: a move of `MU` inside a transfer does not leave the serving unit behind, the one match takes the
master's address, direction and word, and the unit that serves raises and releases `ack`; nothing else touches them. -/
theorem everyStepKeepsTheHandshake : Obligations.EveryStepKeepsTheHandshake := fun _ _ h hs =>
  step_keeps State.Handshake
    (order := fun _ _ _ _ h => h)
    (present := fun _ u _ h _ => h.popCommand u)
    (operation := fun _ _ _ h he => h.exec he)
    (time := fun _ _ h _ _ => h) h hs

end Sys2Proof.Machine
end

section
/-! The frames of the word-level operations (10_state.md R21, R35). What a segment writes besides its own unit is one of
a few updates, each bound to its place (`MasterWrites`, `SlaveWrites`); the frames are read off them. -/

namespace Sys2Proof.Machine

variable {s t : State}

/-! ## MW and MR -/

/-- What MW or MR writes, `MU` being where it is in `s`: `MU` itself, and besides one of these or nothing. -/
inductive State.MasterWrites (s : State) : State → Prop
  | own (v : MasterUnit) (hp : s.mu.phase ≠ .mw .txnSetup ∧ s.mu.phase ≠ .mr .txnSetup) : s.MasterWrites (s.withMu v)
  | ready (b : Bool) (v : MasterUnit) (hp : s.mu.phase ∈ [.mw .setup, .mw .hold, .mr .setup, .mr .hold]) :
      s.MasterWrites ((s.driveReady b).withMu v)
  | mwPin (a : Addr) (d : Word) (v : MasterUnit) (hp : s.mu.phase = .mw .start) (hv : s.cfg.variant = .pin) :
      s.MasterWrites ((((s.markServed false).driveAddress a).driveData d).withMu v)
  | mwTxn (a : Addr) (d : Word) (v : MasterUnit) (hp : s.mu.phase = .mw .start) (hv : s.cfg.variant = .txn) :
      s.MasterWrites ((((s.markServed false).drivePendingAddress a).drivePendingData d).withMu v)
  | mrPin (a : Addr) (v : MasterUnit) (hp : s.mu.phase = .mr .start) (hv : s.cfg.variant = .pin) :
      s.MasterWrites (((s.markServed false).driveAddress a).withMu v)
  | mrTxn (a : Addr) (v : MasterUnit) (hp : s.mu.phase = .mr .start) (hv : s.cfg.variant = .txn) :
      s.MasterWrites (((s.markServed false).drivePendingAddress a).withMu v)
  | wake (v : MasterUnit) (hp : s.mu.phase = .mw .txnSetup ∨ s.mu.phase = .mr .txnSetup) :
      s.MasterWrites ((s.notify .readyNotice).withMu v)

namespace State.MasterWrites

theorem withMu (h : s.MasterWrites t) (w : MasterUnit) : s.MasterWrites (t.withMu w) := by
  cases h with
  | own _ hp => exact .own w hp
  | ready b _ hp => exact .ready b w hp
  | mwPin a d _ hp hv => exact .mwPin a d w hp hv
  | mwTxn a d _ hp hv => exact .mwTxn a d w hp hv
  | mrPin a _ hp hv => exact .mrPin a w hp hv
  | mrTxn a _ hp hv => exact .mrTxn a w hp hv
  | wake _ hp => exact .wake w hp

/-- The start of a `RUN` of `MU` does not matter. -/
theorem of_runStart (h : (s.withMu { s.mu with susp := .none }).MasterWrites t) : s.MasterWrites t := by
  cases h with
  | own v hp => exact .own v hp
  | ready b v hp => exact .ready b v hp
  | mwPin a d v hp hv => exact .mwPin a d v hp hv
  | mwTxn a d v hp hv => exact .mwTxn a d v hp hv
  | mrPin a v hp hv => exact .mrPin a v hp hv
  | mrTxn a v hp hv => exact .mrTxn a v hp hv
  | wake v hp => exact .wake v hp

end State.MasterWrites

/-- The registers of `MU` that no move of MW or MR changes, the operands being latched at issue. -/
def MasterUnit.KeepsRegisters (u v : MasterUnit) : Prop :=
  v.lop = u.lop ∧ v.link = u.link ∧ v.port.todo = u.port.todo ∧ (u.phase ≠ .idle → v.a = u.a ∧ v.d = u.d)

/-- A segment of MW, up to where it ends or returns, changes no more than `PHASE` and `SUSP` of `MU`. -/
theorem mwSegment_writes {ret : State → Answer} {p : MwPoint} (hp : s.mu.phase = .mw p)
    (hs : mwSegment ret p s = .next t) :
    ∃ r, s.MasterWrites r ∧ (∃ ph w, r.mu = { s.mu with phase := ph, susp := w }) ∧ (r = t ∨ ret r = .next t) := by
  rcases mwSegment_next hs with
    ⟨rfl, rfl⟩ | (⟨rfl, ha⟩ | ⟨rfl, ha⟩) | (⟨rfl, hr⟩ | ⟨rfl, hr⟩) | ⟨rfl, rfl⟩ | ⟨rfl, rfl⟩ | ⟨rfl, hr⟩
  · cases hv : s.cfg.variant with
    | pin => rw [mwBegin_pin hv]; exact ⟨_, .mwPin _ _ _ hp hv, ⟨_, _, rfl⟩, .inl rfl⟩
    | txn => rw [mwBegin_txn hv]; exact ⟨_, .mwTxn _ _ _ hp hv, ⟨_, _, rfl⟩, .inl rfl⟩
  · rcases mwAwaitAck_next.mp ha with ⟨-, rfl⟩ | ⟨-, rfl⟩
    · exact ⟨_, .ready true _ (by simp [hp]), ⟨_, _, rfl⟩, .inl rfl⟩
    · exact ⟨_, .ready true _ (by simp [hp]), ⟨_, _, rfl⟩, .inl rfl⟩
  · rcases mwAwaitAck_next.mp ha with ⟨-, rfl⟩ | ⟨-, rfl⟩
    · exact ⟨_, .own _ (by simp [hp]), ⟨_, _, rfl⟩, .inl rfl⟩
    · exact ⟨_, .own _ (by simp [hp]), ⟨_, _, rfl⟩, .inl rfl⟩
  · rcases mwRelease_next.mp hr with ⟨-, hr⟩ | ⟨-, rfl⟩
    · exact ⟨_, .ready false _ (by simp [hp]), ⟨_, _, rfl⟩, .inr hr⟩
    · exact ⟨_, .ready false _ (by simp [hp]), ⟨_, _, rfl⟩, .inl rfl⟩
  · rcases mwRelease_next.mp hr with ⟨-, hr⟩ | ⟨-, rfl⟩
    · exact ⟨_, .own _ (by simp [hp]), ⟨_, _, rfl⟩, .inr hr⟩
    · exact ⟨_, .own _ (by simp [hp]), ⟨_, _, rfl⟩, .inl rfl⟩
  · exact ⟨_, .wake _ (.inl hp), ⟨_, _, rfl⟩, .inl rfl⟩
  · exact ⟨_, .own _ (by simp [hp]), ⟨_, _, rfl⟩, .inl rfl⟩
  · exact ⟨s, .own s.mu (by simp [hp]), ⟨_, _, rfl⟩, .inr hr⟩

/-- A segment of MR, up to where it ends or returns, changes no more than `PHASE`, `SUSP` and `Q` of `MU`. -/
theorem mrSegment_writes {ret : State → Answer} {p : MrPoint} (hp : s.mu.phase = .mr p)
    (hs : mrSegment ret p s = .next t) :
    ∃ r, s.MasterWrites r ∧ (∃ ph w q, r.mu = { s.mu with phase := ph, susp := w, q := q }) ∧
      (r = t ∨ ret r = .next t) := by
  rcases mrSegment_next hs with
    ⟨rfl, rfl⟩ | (⟨rfl, ha⟩ | ⟨rfl, ha⟩) | (⟨rfl, hr⟩ | ⟨rfl, hr⟩) | ⟨rfl, rfl⟩ | ⟨rfl, hq⟩ | ⟨rfl, hr⟩
  · cases hv : s.cfg.variant with
    | pin => rw [mrBegin_pin hv]; exact ⟨_, .mrPin _ _ hp hv, ⟨_, _, _, rfl⟩, .inl rfl⟩
    | txn => rw [mrBegin_txn hv]; exact ⟨_, .mrTxn _ _ hp hv, ⟨_, _, _, rfl⟩, .inl rfl⟩
  · rcases mrAwaitAck_next.mp ha with ⟨-, x, -, rfl⟩ | ⟨-, rfl⟩
    · exact ⟨_, .ready true _ (by simp [hp]), ⟨_, _, _, rfl⟩, .inl rfl⟩
    · exact ⟨_, .ready true _ (by simp [hp]), ⟨_, _, _, rfl⟩, .inl rfl⟩
  · rcases mrAwaitAck_next.mp ha with ⟨-, x, -, rfl⟩ | ⟨-, rfl⟩
    · exact ⟨_, .own _ (by simp [hp]), ⟨_, _, _, rfl⟩, .inl rfl⟩
    · exact ⟨_, .own _ (by simp [hp]), ⟨_, _, _, rfl⟩, .inl rfl⟩
  · rcases mrRelease_next.mp hr with ⟨-, hr⟩ | ⟨-, rfl⟩
    · exact ⟨_, .ready false _ (by simp [hp]), ⟨_, _, _, rfl⟩, .inr hr⟩
    · exact ⟨_, .ready false _ (by simp [hp]), ⟨_, _, _, rfl⟩, .inl rfl⟩
  · rcases mrRelease_next.mp hr with ⟨-, hr⟩ | ⟨-, rfl⟩
    · exact ⟨_, .own _ (by simp [hp]), ⟨_, _, _, rfl⟩, .inr hr⟩
    · exact ⟨_, .own _ (by simp [hp]), ⟨_, _, _, rfl⟩, .inl rfl⟩
  · exact ⟨_, .wake _ (.inr hp), ⟨_, _, _, rfl⟩, .inl rfl⟩
  · obtain ⟨x, -, rfl⟩ := mrSample_next.mp hq
    exact ⟨_, .own _ (by simp [hp]), ⟨_, _, _, rfl⟩, .inl rfl⟩
  · exact ⟨s, .own s.mu (by simp [hp]), ⟨_, _, _, rfl⟩, .inr hr⟩

theorem execMw_writes {a : Addr} {d : Word} (hs : execMw a d s = .next t) :
    s.MasterWrites t ∧ s.mu.KeepsRegisters t.mu ∧ t.mu.q = s.mu.q := by
  obtain ⟨-, ⟨hp, -, rfl⟩ | ⟨p, hp, hi, -, hm⟩⟩ := execMw_next.mp hs
  · exact ⟨.own _ (by simp [hp]), ⟨rfl, rfl, rfl, fun h => absurd hp h⟩, rfl⟩
  · obtain ⟨-, hop, -⟩ := MasterUnit.current_mw hi
    obtain ⟨r, hw, ⟨ph, w, hmu⟩, rfl | hc⟩ := mwSegment_writes (s := s.withMu { s.mu with susp := .none }) hp hm
    · refine ⟨hw.of_runStart, ?_⟩
      rw [hmu]
      exact ⟨⟨rfl, rfl, rfl, fun _ => ⟨rfl, rfl⟩⟩, rfl⟩
    · obtain rfl := completeMaster_next.mp hc
      refine ⟨hw.of_runStart.withMu _, ?_⟩
      rw [State.withMu_mu, hmu]
      exact ⟨⟨hop.symm, rfl, rfl, fun _ => ⟨rfl, rfl⟩⟩, rfl⟩

theorem execMr_writes {a : Addr} (hs : execMr a s = .next t) :
    s.MasterWrites t ∧ s.mu.KeepsRegisters t.mu ∧ t.mu.d = s.mu.d ∧ s.mu.phase ≠ .mw .start := by
  obtain ⟨-, ⟨hp, rfl⟩ | ⟨p, hp, hi, -, hm⟩⟩ := execMr_next.mp hs
  · exact ⟨.own _ (by simp [hp]), ⟨rfl, rfl, rfl, fun h => absurd hp h⟩, rfl, by simp [hp]⟩
  · obtain ⟨-, hop, -⟩ := MasterUnit.current_mr hi
    obtain ⟨r, hw, ⟨ph, w, q, hmu⟩, rfl | hc⟩ := mrSegment_writes (s := s.withMu { s.mu with susp := .none }) hp hm
    · refine ⟨hw.of_runStart, ?_⟩
      rw [hmu]
      exact ⟨⟨rfl, rfl, rfl, fun _ => ⟨rfl, rfl⟩⟩, rfl, by simp [hp]⟩
    · obtain rfl := completeMaster_next.mp hc
      refine ⟨hw.of_runStart.withMu _, ?_⟩
      rw [State.withMu_mu, hmu]
      exact ⟨⟨hop.symm, rfl, rfl, fun _ => ⟨rfl, rfl⟩⟩, rfl, by simp [hp]⟩

/-! The frame, read off the writes part by part. -/

namespace State.MasterWrites

theorem fixed (h : s.MasterWrites t) :
    t.cfg = s.cfg ∧ t.now = s.now ∧ t.intr = s.intr ∧ t.sel = s.sel ∧ t.handed = s.handed ∧ t.agenda = s.agenda ∧
      t.tick = s.tick ∧ t.drawn = s.drawn ∧ t.bus.ack = s.bus.ack := by
  cases h <;> exact ⟨rfl, rfl, rfl, rfl, rfl, rfl, rfl, rfl, rfl⟩

theorem cells (h : s.MasterWrites t) (hw : s.mu.phase ≠ .mw .start) (hr : s.mu.phase ≠ .mr .start) :
    t.bus.address = s.bus.address ∧ t.bus.data = s.bus.data ∧ t.txn = s.txn ∧ t.served = s.served := by
  cases h with
  | own | ready | wake => exact ⟨rfl, rfl, rfl, rfl⟩
  | mwPin a d v hp | mwTxn a d v hp => exact absurd hp hw
  | mrPin a v hp | mrTxn a v hp => exact absurd hp hr

theorem data (h : s.MasterWrites t) (hw : s.mu.phase ≠ .mw .start) :
    t.bus.data = s.bus.data ∧ t.txn.pendingData = s.txn.pendingData := by
  cases h with
  | own | ready | wake | mrPin | mrTxn => exact ⟨rfl, rfl⟩
  | mwPin a d v hp | mwTxn a d v hp => exact absurd hp hw

theorem pin (h : s.MasterWrites t) (hc : s.cfg.variant = .pin) : t.txn = s.txn := by
  cases h with
  | own | ready | wake | mwPin | mrPin => rfl
  | mwTxn a d v hp hv | mrTxn a v hp hv => cases hc.symm.trans hv

theorem txn (h : s.MasterWrites t) (hc : s.cfg.variant = .txn) :
    t.bus.address = s.bus.address ∧ t.bus.data = s.bus.data := by
  cases h with
  | own | ready | wake | mwTxn | mrTxn => exact ⟨rfl, rfl⟩
  | mwPin a d v hp hv | mrPin a v hp hv => cases hc.symm.trans hv

theorem line (h : s.MasterWrites t) (hr : s.mu.phase ∉ [.mw .setup, .mw .hold, .mr .setup, .mr .hold]) :
    t.bus.ready = s.bus.ready := by
  cases h with
  | own | wake | mwPin | mwTxn | mrPin | mrTxn => rfl
  | ready b v hp => exact absurd hp hr

theorem others (h : s.MasterWrites t) (hw : s.mu.phase ≠ .mw .txnSetup) (hr : s.mu.phase ≠ .mr .txnSetup) :
    t.su = s.su ∧ t.snd = s.snd ∧ t.rcv = s.rcv := by
  cases h with
  | own | ready | mwPin | mwTxn | mrPin | mrTxn => exact ⟨rfl, rfl, rfl⟩
  | wake v hp => exact absurd hp (not_or.mpr ⟨hw, hr⟩)

theorem woken (h : s.MasterWrites t) (hp : s.mu.phase = .mw .txnSetup ∨ s.mu.phase = .mr .txnSetup) :
    t.su = (s.notify .readyNotice).su ∧ t.snd = (s.notify .readyNotice).snd ∧ t.rcv = (s.notify .readyNotice).rcv := by
  cases h with
  | wake => exact ⟨rfl, rfl, rfl⟩
  | own v hn => exact absurd hp (not_or.mpr hn)
  | ready b v hn => rcases hp with hp | hp <;> simp [hp] at hn
  | mwPin a d v hn | mwTxn a d v hn => rcases hp with hp | hp <;> cases hn.symm.trans hp
  | mrPin a v hn | mrTxn a v hn => rcases hp with hp | hp <;> cases hn.symm.trans hp

end State.MasterWrites

/-- Settles O46: what MW and MR write, and the registers of `MU` they keep. -/
theorem masterWordFrame : Obligations.MasterWordFrame := by
  rintro s t i hi he
  have hd : s.MasterWrites t ∧ s.mu.KeepsRegisters t.mu ∧
      ((∃ a, i = .mr a) → t.mu.d = s.mu.d ∧ s.mu.phase ≠ .mw .start) ∧ ((∃ a d, i = .mw a d) → t.mu.q = s.mu.q) := by
    rcases hi with ⟨a, d, rfl⟩ | ⟨a, rfl⟩
    · obtain ⟨hw, hk, hq⟩ := execMw_writes he
      exact ⟨hw, hk, nofun, fun _ => hq⟩
    · obtain ⟨hw, hk, hd, hp⟩ := execMr_writes he
      exact ⟨hw, hk, fun _ => ⟨hd, hp⟩, nofun⟩
  obtain ⟨hw, ⟨hlop, hlink, htodo, hops⟩, hmr, hmw⟩ := hd
  obtain ⟨hcfg, hnow, hintr, hsel, hhanded, hagenda, htick, hdrawn, hack⟩ := hw.fixed
  refine ⟨hcfg, hnow, hintr, hsel, hhanded, hagenda, htick, hdrawn, hack, hw.cells, fun hi => ?_, hw.pin,
    hw.txn, hw.line, hops, hmw, hlop, hlink, htodo, fun x => by rw [hlink], hw.others, hw.woken⟩
  obtain ⟨hd, hp⟩ := hmr hi
  exact ⟨(hw.data hp).1, (hw.data hp).2, hd⟩

/-! ## SR and SW -/

/-- What SR or SW on `SU[k]`, which is `u` in `s`, writes: `SU[k]`, which becomes `v`, and besides one of these or
nothing. -/
inductive State.SlaveWrites (s : State) (k : Nat) (u v : SlaveUnit) : State → Prop
  | own (hp : u.phase ≠ .word .txnAckRel) : s.SlaveWrites k u v (s.withSu k v)
  | ack (b : Bool) (hp : u.phase = .word .service ∨ u.phase = .word .ackRel) :
      s.SlaveWrites k u v ((s.driveAck b).withSu k v)
  | capture (hp : u.phase ≠ .word .txnAckRel) : s.SlaveWrites k u v ((s.markServed true).withSu k v)
  | drivePin (d : Word) (hp : u.phase ∈ [.word .start, .word .waitReady, .word .backoff])
      (hv : u.phase = .word .start → s.cfg.variant = .pin) (hr : s.bus.ready = true) (hd : u.dir = .drive) :
      s.SlaveWrites k u v (((s.markServed true).driveData d).withSu k v)
  | driveTxn (d : Word) (hp : u.phase = .word .txnWaitReady) (hd : u.dir = .drive) :
      s.SlaveWrites k u v (((s.markServed true).drivePendingData d).withSu k v)
  | wake (hp : u.phase = .word .txnAckRel) : s.SlaveWrites k u v ((s.notify .ackNotice).withSu k v)

/-- Inside SR or SW a unit changes no more than `PHASE`, `SUSP` and, SR only, `Q`. -/
def SlaveUnit.MovesTo (u v : SlaveUnit) : Prop :=
  ∃ ph w q, v = { u with phase := ph, susp := w, q := q } ∧ (u.dir = .drive → q = u.q)

variable {k : Nat} {u v : SlaveUnit}

theorem SlaveUnit.movesTo (u : SlaveUnit) (ph : SlavePhase) (w : Susp) : u.MovesTo { u with phase := ph, susp := w } :=
  ⟨ph, w, u.q, rfl, fun _ => rfl⟩

theorem suAwaitReady_writes (hp : u.phase ∈ [.word .start, .word .waitReady, .word .backoff])
    (hv : u.phase = .word .start → s.cfg.variant = .pin) (hs : suAwaitReady k u s = .next t) :
    ∃ v, s.SlaveWrites k u v t ∧ u.MovesTo v := by
  have hn : u.phase ≠ .word .txnAckRel := fun h => by simp [h] at hp
  rcases suAwaitReady_next.mp hs with ⟨hr, ht⟩ | ⟨-, rfl⟩
  · obtain ⟨x, -, ⟨-, hm⟩ | ⟨-, rfl⟩⟩ := testPin_next.mp ht
    · obtain ⟨-, -, ⟨hd, w, -, rfl⟩ | ⟨hd, rfl⟩⟩ := servePin_next.mp hm
      · exact ⟨_, .capture hn, _, _, w, rfl, by simp [hd]⟩
      · exact ⟨_, .drivePin u.d hp hv hr hd, u.movesTo _ _⟩
    · exact ⟨_, .own hn, u.movesTo _ _⟩
  · exact ⟨_, .own hn, u.movesTo _ _⟩

theorem testTxn_writes (hp : u.phase = .word .txnWaitReady) (hs : testTxn k u s = .next t) :
    ∃ v, s.SlaveWrites k u v t ∧ u.MovesTo v := by
  have hn : u.phase ≠ .word .txnAckRel := by simp [hp]
  obtain ⟨x, -, ⟨-, hm⟩ | ⟨-, rfl⟩⟩ := testTxn_next.mp hs
  · obtain ⟨-, -, ⟨hd, w, -, rfl⟩ | ⟨hd, rfl⟩⟩ := serveTxn_next.mp hm
    · exact ⟨_, .capture hn, _, _, w, rfl, by simp [hd]⟩
    · exact ⟨_, .driveTxn u.d hp hd, u.movesTo _ _⟩
  · exact ⟨_, .own hn, u.movesTo _ _⟩

/-- A segment of SR or SW ends so, or returns from such a state with `SU[k]` still to be written. -/
theorem slaveSegment_writes {ret : SlaveUnit → State → Answer} {p : SlavePoint} (hp : u.phase = .word p)
    (hs : slaveSegment k ret p u s = .next t) :
    (∃ v, s.SlaveWrites k u v t ∧ u.MovesTo v) ∨
    ∃ r, (∀ v, s.SlaveWrites k u v (r.withSu k v)) ∧ ret u r = .next t := by
  rcases slaveSegment_next hs with
    ⟨rfl, hb⟩ | ⟨hpt, ha⟩ | (⟨rfl, hr⟩ | ⟨rfl, hr⟩) | ⟨rfl, hr⟩ | ⟨rfl, ht⟩ | ⟨rfl, rfl⟩ | ⟨rfl, hr⟩
  · rcases slaveBegin_next.mp hb with ⟨hv, ha⟩ | ⟨-, rfl⟩
    · exact .inl (suAwaitReady_writes (by simp [hp]) (fun _ => hv) ha)
    · exact .inl ⟨_, .own (by simp [hp]), u.movesTo _ _⟩
  · rcases hpt with rfl | rfl
    · exact .inl (suAwaitReady_writes (by simp [hp]) (by simp [hp]) ha)
    · exact .inl (suAwaitReady_writes (by simp [hp]) (by simp [hp]) ha)
  · rcases suAwaitRelease_next.mp hr with ⟨-, rfl⟩ | ⟨-, rfl⟩
    · exact .inl ⟨_, .ack true (.inl hp), u.movesTo _ _⟩
    · exact .inl ⟨_, .ack true (.inl hp), u.movesTo _ _⟩
  · rcases suAwaitRelease_next.mp hr with ⟨-, rfl⟩ | ⟨-, rfl⟩
    · exact .inl ⟨_, .own (by simp [hp]), u.movesTo _ _⟩
    · exact .inl ⟨_, .own (by simp [hp]), u.movesTo _ _⟩
  · exact .inr ⟨_, fun _ => .ack false (.inr hp), hr⟩
  · exact .inl (testTxn_writes hp ht)
  · exact .inl ⟨_, .own (by simp [hp]), u.movesTo _ _⟩
  · exact .inr ⟨_, fun _ => .wake hp, hr⟩

namespace State.SlaveWrites

/-- The start of a `RUN` of `SU[k]` does not matter. -/
theorem of_runStart (h : (s.withSu k { u with susp := .none }).SlaveWrites k { u with susp := .none } v t) :
    s.SlaveWrites k u v t := by
  cases h with
  | own hp => rw [State.withSu_withSu]; exact .own hp
  | ack b hp => exact State.withSu_withSu (s.driveAck b) k _ v ▸ .ack b hp
  | capture hp => exact State.withSu_withSu (s.markServed true) k _ v ▸ .capture hp
  | drivePin d hp hv hr hd =>
    exact State.withSu_withSu ((s.markServed true).driveData d) k _ v ▸ .drivePin d hp hv hr hd
  | driveTxn d hp hd =>
    exact State.withSu_withSu ((s.markServed true).drivePendingData d) k _ v ▸ .driveTxn d hp hd
  | wake hp =>
    have he : ((s.withSu k { u with susp := .none }).notify .ackNotice).withSu k v =
        (s.notify .ackNotice).withSu k v := by
      simp [State.withSu, State.notify, State.wake, List.map_set]
    exact he ▸ .wake hp

end State.SlaveWrites

/-- The registers of `SU[k]` that no move of SR or SW changes, the operands and `DIR` being latched at issue. -/
def SlaveUnit.KeepsRegisters (u v : SlaveUnit) : Prop :=
  v.lop = u.lop ∧ v.link = u.link ∧ v.port.todo = u.port.todo ∧
    (u.phase ≠ .idle → v.a = u.a ∧ v.d = u.d ∧ v.dir = u.dir)

theorem execSr_writes {a : Addr} (hsel : s.sel = .su k) (hk : s.su[k]? = some u) (hs : execSr a s = .next t) :
    ∃ v, s.SlaveWrites k u v t ∧ u.KeepsRegisters v ∧ v.d = u.d ∧ (u.phase ≠ .idle → u.dir = .capture) := by
  obtain ⟨k', u', hsel', hk', hc⟩ := execSr_next.mp hs
  cases hsel.symm.trans hsel'
  cases hk.symm.trans hk'
  rcases hc with ⟨hp, rfl⟩ | ⟨p, hp, hi, -, hm⟩
  · exact ⟨_, .own (by simp [hp]), ⟨rfl, rfl, rfl, fun h => absurd hp h⟩, rfl, fun h => absurd hp h⟩
  · obtain ⟨-, hop, hdir, -⟩ := SlaveUnit.current_sr hi
    rcases slaveSegment_writes (u := { u with susp := .none }) hp hm with ⟨v, hw, ph, w, q, rfl, -⟩ | ⟨r, hw, hr⟩
    · exact ⟨_, hw.of_runStart, ⟨rfl, rfl, rfl, fun _ => ⟨rfl, rfl, rfl⟩⟩, rfl, fun _ => hdir⟩
    · obtain rfl := completeSlave_next.mp hr
      exact ⟨_, (hw _).of_runStart, ⟨hop.symm, rfl, rfl, fun _ => ⟨rfl, rfl, rfl⟩⟩, rfl, fun _ => hdir⟩

theorem execSw_writes {a : Addr} {d : Word} (hsel : s.sel = .su k) (hk : s.su[k]? = some u)
    (hs : execSw a d s = .next t) : ∃ v, s.SlaveWrites k u v t ∧ u.KeepsRegisters v ∧ v.q = u.q := by
  obtain ⟨k', u', hsel', hk', hc⟩ := execSw_next.mp hs
  cases hsel.symm.trans hsel'
  cases hk.symm.trans hk'
  rcases hc with ⟨hp, -, rfl⟩ | ⟨p, hp, hi, -, hm⟩
  · exact ⟨_, .own (by simp [hp]), ⟨rfl, rfl, rfl, fun h => absurd hp h⟩, rfl⟩
  · obtain ⟨-, hop, hdir, -⟩ := SlaveUnit.current_sw hi
    rcases slaveSegment_writes (u := { u with susp := .none }) hp hm with ⟨v, hw, ph, w, q, rfl, hq⟩ | ⟨r, hw, hr⟩
    · exact ⟨_, hw.of_runStart, ⟨rfl, rfl, rfl, fun _ => ⟨rfl, rfl, rfl⟩⟩, hq hdir⟩
    · obtain rfl := completeSlave_next.mp hr
      exact ⟨_, (hw _).of_runStart, ⟨hop.symm, rfl, rfl, fun _ => ⟨rfl, rfl, rfl⟩⟩, rfl⟩

/-! The frame, read off the writes part by part. -/

namespace State.SlaveWrites

theorem fixed (h : s.SlaveWrites k u v t) :
    t.cfg = s.cfg ∧ t.now = s.now ∧ t.intr = s.intr ∧ t.sel = s.sel ∧ t.handed = s.handed ∧ t.agenda = s.agenda ∧
      t.tick = s.tick ∧ t.drawn = s.drawn ∧ t.bus.ready = s.bus.ready ∧ t.bus.address = s.bus.address ∧
      t.txn.pendingAddress = s.txn.pendingAddress := by
  cases h <;> exact ⟨rfl, rfl, rfl, rfl, rfl, rfl, rfl, rfl, rfl, rfl, rfl⟩

/-- SR writes no data cell, nor does an issue. -/
theorem cells (h : s.SlaveWrites k u v t) (hd : u.phase ≠ .idle → u.dir = .capture) :
    t.bus.data = s.bus.data ∧ t.txn = s.txn := by
  cases h with
  | own | ack | capture | wake => exact ⟨rfl, rfl⟩
  | drivePin d hp _ _ hdir =>
    have hn : u.phase ≠ .idle := fun hi => by simp [hi] at hp
    cases (hd hn).symm.trans hdir
  | driveTxn d hp hdir => cases (hd (by simp [hp])).symm.trans hdir

theorem data (h : s.SlaveWrites k u v t) (hr : s.bus.ready = false) : t.bus.data = s.bus.data := by
  cases h with
  | own | ack | capture | driveTxn | wake => rfl
  | drivePin d _ _ hr' => cases hr.symm.trans hr'

theorem pin (h : s.SlaveWrites k u v t) (hu : u.phase.isPin = true) : t.txn = s.txn := by
  cases h with
  | own | ack | capture | drivePin | wake => rfl
  | driveTxn d hp => rw [hp] at hu; cases hu

theorem txn (h : s.SlaveWrites k u v t) (hc : s.cfg.variant = .txn) (hu : u.phase.isTxn = true) : t.bus = s.bus := by
  cases h with
  | own | capture | driveTxn | wake => rfl
  | ack b hp => rcases hp with hp | hp <;> simp [hp, SlavePhase.isTxn] at hu
  | drivePin d hp hv =>
    obtain hp | hp | hp : u.phase = .word .start ∨ u.phase = .word .waitReady ∨ u.phase = .word .backoff := by
      simpa using hp
    · cases hc.symm.trans (hv hp)
    · rw [hp] at hu; cases hu
    · rw [hp] at hu; cases hu

theorem line (h : s.SlaveWrites k u v t) (hsv : u.phase ≠ .word .service) (har : u.phase ≠ .word .ackRel) :
    t.bus.ack = s.bus.ack := by
  cases h with
  | own | capture | drivePin | driveTxn | wake => rfl
  | ack b hp => exact absurd hp (not_or.mpr ⟨hsv, har⟩)

theorem served (h : s.SlaveWrites k u v t) : t.served = s.served ∨ t.served = true := by
  cases h with
  | own | ack | wake => exact .inl rfl
  | capture | drivePin | driveTxn => exact .inr rfl

/-- `SU[k]` becomes `v`. -/
theorem self (h : s.SlaveWrites k u v t) (hk : s.su[k]? = some u) : t.su[k]? = some v := by
  obtain ⟨hlt, -⟩ := List.getElem?_eq_some_iff.mp hk
  cases h <;> simp [hlt]

theorem others (h : s.SlaveWrites k u v t) (hp : u.phase ≠ .word .txnAckRel) :
    t.mu = s.mu ∧ t.snd = s.snd ∧ t.rcv = s.rcv ∧ ∀ m, m ≠ k → t.su[m]? = s.su[m]? := by
  cases h with
  | own | ack | capture | drivePin | driveTxn =>
    exact ⟨rfl, rfl, rfl, fun m hm => List.getElem?_set_ne hm.symm⟩
  | wake hp' => exact absurd hp' hp

theorem woken (h : s.SlaveWrites k u v t) (hp : u.phase = .word .txnAckRel) :
    t.mu = (s.notify .ackNotice).mu ∧ t.snd = (s.notify .ackNotice).snd ∧ t.rcv = (s.notify .ackNotice).rcv ∧
      ∀ m, m ≠ k → t.su[m]? = (s.notify .ackNotice).su[m]? := by
  cases h with
  | wake => exact ⟨rfl, rfl, rfl, fun m hm => List.getElem?_set_ne hm.symm⟩
  | own hn | capture hn => exact absurd hp hn
  | ack b hn => rcases hn with hn | hn <;> cases hp.symm.trans hn
  | drivePin d hn => simp [hp] at hn
  | driveTxn d hn => cases hp.symm.trans hn

end State.SlaveWrites

/-- Settles O47: what SR and SW write, and the registers of `SU[k]` they keep. -/
theorem slaveWordFrame : Obligations.SlaveWordFrame := by
  intro s t k u i hi hsel hk he
  obtain ⟨v, hw, ⟨hlop, hlink, htodo, hops⟩, hsr, hsw⟩ : ∃ v, s.SlaveWrites k u v t ∧ u.KeepsRegisters v ∧
      ((∃ a, i = .sr a) → v.d = u.d ∧ (u.phase ≠ .idle → u.dir = .capture)) ∧ ((∃ a d, i = .sw a d) → v.q = u.q) := by
    rcases hi with ⟨a, rfl⟩ | ⟨a, d, rfl⟩
    · obtain ⟨v, hw, hkeep, hd, hdir⟩ := execSr_writes hsel hk he
      exact ⟨v, hw, hkeep, fun _ => ⟨hd, hdir⟩, nofun⟩
    · obtain ⟨v, hw, hkeep, hq⟩ := execSw_writes hsel hk he
      exact ⟨v, hw, hkeep, nofun, fun _ => hq⟩
  obtain ⟨hcfg, hnow, hintr, hsel, hhanded, hagenda, htick, hdrawn, hready, haddr, hpend⟩ := hw.fixed
  exact ⟨hcfg, hnow, hintr, hsel, hhanded, hagenda, htick, hdrawn, hready, haddr, hpend, fun hi => hw.cells (hsr hi).2,
    hw.data, fun _ => hw.pin, hw.txn, hw.line, hw.served,
    ⟨v, hw.self hk, hlop, hlink, htodo, hops, fun hi => (hsr hi).1, hsw, fun x => by rw [hlink]⟩, hw.others, hw.woken⟩

end Sys2Proof.Machine
end

section
/-! The byte buffer read after a write, and why its canonical form is unique (20_memory.md R40, R41). -/

namespace Sys2Proof.Machine

theorem Memory.above_cons_iff {i j : Nat} {c : Byte} {m : Memory} :
    Memory.above i ((j, c) :: m) ↔ i < j ∧ Memory.above i m := List.forall_mem_cons

theorem Memory.above_of_lt_head {i j : Nat} {c : Byte} {m : Memory} (h : Memory.wf ((j, c) :: m) = true) (hij : i < j) :
    Memory.above i ((j, c) :: m) := by
  obtain ⟨-, ha, -⟩ := (Memory.wf_cons_iff j c m).mp h
  exact Memory.above_cons_iff.mpr ⟨hij, fun x hx => hij.trans (ha x hx)⟩

theorem Memory.read_head (i : Nat) (b : Byte) (m : Memory) : Memory.read ((i, b) :: m) i = b := if_pos rfl

theorem Memory.read_tail {i k : Nat} (b : Byte) (m : Memory) (hk : i ≠ k) :
    Memory.read ((i, b) :: m) k = Memory.read m k := if_neg hk

/-- No index at or below a memory's bound is listed, so it holds zero. -/
theorem Memory.read_of_above {i k : Nat} {m : Memory} (hm : Memory.above i m) (hk : k ≤ i) :
    Memory.read m k = Memory.blank := by
  induction m with
  | nil => rfl
  | cons e m ih =>
    obtain ⟨hj, hm⟩ := Memory.above_cons_iff.mp hm
    exact (Memory.read_tail _ m (by omega)).trans (ih hm)

/-- An entry put in front reads as one listed there, a zero that is left out included. -/
theorem Memory.read_cons {i : Nat} {m : Memory} (hm : Memory.above i m) (b : Byte) (k : Nat) :
    Memory.read (Memory.cons i b m) k = Memory.read ((i, b) :: m) k := by
  unfold Memory.cons
  split
  case isFalse => rfl
  case isTrue hb =>
    obtain rfl | hk := eq_or_ne i k
    · rw [Memory.read_of_above hm le_rfl, Memory.read_head, hb]
    · rw [Memory.read_tail b m hk]

/-- Read after write of a canonical memory: the index written reads as written, every other as before. -/
theorem Memory.read_write {m : Memory} (h : Memory.wf m = true) (i : Nat) (b : Byte) (k : Nat) :
    Memory.read (Memory.write m i b) k = if i = k then b else Memory.read m k := by
  induction m with
  | nil => exact Memory.read_cons (by simp [Memory.above]) b k
  | cons e m ih =>
    obtain ⟨j, c⟩ := e
    obtain ⟨-, ha, hm⟩ := (Memory.wf_cons_iff j c m).mp h
    unfold Memory.write
    split
    case isTrue hij => exact Memory.read_cons (Memory.above_of_lt_head h hij) b k
    split
    case isTrue hij =>
      subst hij
      rw [Memory.read_cons ha]
      obtain rfl | hk := eq_or_ne i k
      · simp [Memory.read_head]
      · simp [Memory.read_tail _ m hk, hk]
    case isFalse hij =>
      obtain rfl | hk := eq_or_ne j k
      · simp [Memory.read_head, hij]
      · rw [Memory.read_tail c _ hk, Memory.read_tail c m hk, ih hm]

/-- The first entry of a canonical memory tells it from every memory whose indices are all higher. -/
theorem Memory.read_head_ne {i : Nat} {b : Byte} {m n : Memory} (hm : Memory.wf ((i, b) :: m) = true)
    (hn : Memory.above i n) : Memory.read ((i, b) :: m) i ≠ Memory.read n i := by
  rw [Memory.read_head, Memory.read_of_above hn le_rfl]
  exact ((Memory.wf_cons_iff i b m).mp hm).1

/-- Two canonical memories that read alike have the same first index: the lower one would read as listed in one memory
and as zero in the other. -/
theorem Memory.not_head_lt {i j : Nat} {b c : Byte} {m n : Memory} (hm : Memory.wf ((i, b) :: m) = true)
    (hn : Memory.wf ((j, c) :: n) = true)
    (h : ∀ k, Memory.read ((i, b) :: m) k = Memory.read ((j, c) :: n) k) : ¬ i < j :=
  fun hij => Memory.read_head_ne hm (Memory.above_of_lt_head hn hij) (h i)

/-- The canonical form is unique: canonical memories that read alike are equal. -/
theorem Memory.eq_of_read_eq {m n : Memory} (hm : Memory.wf m = true) (hn : Memory.wf n = true)
    (h : ∀ k, Memory.read m k = Memory.read n k) : m = n := by
  induction m generalizing n with
  | nil =>
    cases n with
    | nil => rfl
    | cons e n => exact absurd (h e.1).symm (Memory.read_head_ne hn (by simp [Memory.above]))
  | cons e m ih =>
    cases n with
    | nil => exact absurd (h e.1) (Memory.read_head_ne hm (by simp [Memory.above]))
    | cons d n =>
      obtain ⟨i, b⟩ := e
      obtain ⟨j, c⟩ := d
      obtain rfl : i = j := Nat.le_antisymm (Nat.le_of_not_lt (Memory.not_head_lt hn hm fun k => (h k).symm))
        (Nat.le_of_not_lt (Memory.not_head_lt hm hn h))
      obtain rfl : b = c := by simpa only [Memory.read_head] using h i
      obtain ⟨-, ham, hm⟩ := (Memory.wf_cons_iff i b m).mp hm
      obtain ⟨-, han, hn⟩ := (Memory.wf_cons_iff i b n).mp hn
      rw [ih hm hn fun k => ?_]
      obtain rfl | hk := eq_or_ne i k
      · rw [Memory.read_of_above ham le_rfl, Memory.read_of_above han le_rfl]
      · simpa only [Memory.read_tail b _ hk] using h k

theorem Buffer.mem_wf {b : Buffer} (h : b.wf = true) : Memory.wf b.mem = true := ((Bool.and_eq_true ..).mp h).1

/-- Read after write of a canonical buffer; a write outside it changes nothing. -/
theorem Buffer.read_write {b : Buffer} (h : b.wf = true) (i : Nat) (v : Byte) (j : Nat) :
    (b.write i v).read j = if j = i ∧ i < b.size then v else b.read j := by
  unfold Buffer.write
  split
  case isTrue hi => simpa only [Buffer.read, hi, and_true, eq_comm] using Memory.read_write (Buffer.mem_wf h) i v j
  case isFalse hi => rw [if_neg fun hj => hi hj.2]

/-- Canonical buffers of one size that read alike are equal. -/
theorem Buffer.eq_of_read_eq {b c : Buffer} (hb : b.wf = true) (hc : c.wf = true) (hs : b.size = c.size)
    (h : ∀ m, b.read m = c.read m) : b = c := by
  cases b; cases c
  obtain rfl := hs
  exact congrArg _ (Memory.eq_of_read_eq (Buffer.mem_wf hb) (Buffer.mem_wf hc) h)

/-- Settles O40: read after write and frame of the buffer, its size and canonical form kept, and that form unique. -/
theorem bufferReadAfterWrite : Obligations.BufferReadAfterWrite :=
  fun b i j v hb => ⟨Buffer.read_write hb i v j, Buffer.write_size b i v, Buffer.write_wf hb i v,
    fun _ hc hs hr => Buffer.eq_of_read_eq hc hb hs hr⟩

end Sys2Proof.Machine
end

section
/-! The command word and its operations (30_encoding.md R58 to R65, R71). A word is its four fields, so a word decodes to an
operation exactly when it is that operation's encoding and the operation is well formed; which words those are, by mask and
match and as the cases of R63, follows. -/

namespace Sys2Proof

variable {dw : DataWidth} {cw : CommandWord} {i : Instr}

/-! ## A word is its four fields -/

theorem CommandWord.append_fields (cw : CommandWord) :
    CommandWord.op cw ++ CommandWord.rsv cw ++ CommandWord.addr cw ++ CommandWord.arg cw = cw := by
  simp only [CommandWord.op, CommandWord.rsv, CommandWord.addr, CommandWord.arg]
  rw [BitVec.extractLsb'_append_extractLsb'_eq_extractLsb' (show 60 = 48 + 12 from rfl),
    BitVec.extractLsb'_append_extractLsb'_eq_extractLsb' (show 48 = 32 + 16 from rfl),
    BitVec.extractLsb'_append_extractLsb'_eq_extractLsb' (show 32 = 0 + 32 from rfl)]
  exact BitVec.extractLsb'_eq_self

theorem CommandWord.eq_iff_fields {cw v : CommandWord} :
    cw = v ↔ CommandWord.op cw = CommandWord.op v ∧ CommandWord.rsv cw = CommandWord.rsv v ∧
      CommandWord.addr cw = CommandWord.addr v ∧ CommandWord.arg cw = CommandWord.arg v := by
  refine ⟨fun h => h ▸ ⟨rfl, rfl, rfl, rfl⟩, fun ⟨hop, hrsv, haddr, harg⟩ => ?_⟩
  rw [← CommandWord.append_fields cw, ← CommandWord.append_fields v, hop, hrsv, haddr, harg]

theorem encode_eq_iff :
    encode i = cw ↔ CommandWord.op cw = i.opcode ∧ CommandWord.rsv cw = 0 ∧
      CommandWord.addr cw = i.addrField ∧ CommandWord.arg cw = i.argField := by
  obtain ⟨hop, hrsv, haddr, harg⟩ := Laws.Encoding.fields i
  rw [eq_comm, CommandWord.eq_iff_fields, hop, hrsv, haddr, harg]

/-! ## The four formats (R59) -/

theorem decodeW_ok {mk : Addr → Word → Instr} :
    decodeW dw mk cw = .ok i ↔
      dw.fits (CommandWord.arg cw) = true ∧ mk (CommandWord.addr cw) (CommandWord.arg cw) = i := by
  unfold decodeW; split <;> simp_all

theorem decodeA_ok {mk : Addr → Instr} :
    decodeA mk cw = .ok i ↔ CommandWord.arg cw = 0 ∧ mk (CommandWord.addr cw) = i := by
  unfold decodeA; split <;> simp_all

theorem decodeL_ok {mk : Addr → Len → Instr} :
    decodeL mk cw = .ok i ↔ mk (CommandWord.addr cw) (CommandWord.arg cw) = i := by
  simp [decodeL]

theorem decodeN_ok {j : Instr} :
    decodeN j cw = .ok i ↔ CommandWord.addr cw = 0 ∧ CommandWord.arg cw = 0 ∧ j = i := by
  unfold decodeN; split_ifs <;> simp_all

theorem decodeW_error {mk : Addr → Word → Instr} :
    (∃ e, decodeW dw mk cw = .error e) ↔ 2 ^ dw.bits ≤ (CommandWord.arg cw).toNat := by
  unfold decodeW DataWidth.fits; split <;> simp_all

theorem decodeA_error {mk : Addr → Instr} : (∃ e, decodeA mk cw = .error e) ↔ CommandWord.arg cw ≠ 0 := by
  unfold decodeA; split <;> simp_all

theorem decodeN_error {j : Instr} :
    (∃ e, decodeN j cw = .error e) ↔ CommandWord.addr cw ≠ 0 ∨ CommandWord.arg cw ≠ 0 := by
  unfold decodeN; split_ifs <;> simp_all

/-! ## Decoding is the inverse of encoding -/

/-- The word an operation was decoded from is its encoding, field by field, and the operation is well formed. -/
theorem encode_of_decode (h : decode dw cw = .ok i) : encode i = cw ∧ WellFormed dw i = true := by
  unfold decode at h
  split at h
  · cases h
  rename_i hrsv
  rw [encode_eq_iff]
  replace hrsv := not_not.mp hrsv
  split at h <;> rename_i hop
  · obtain ⟨hd, rfl⟩ := decodeW_ok.mp h
    exact ⟨⟨BitVec.eq_of_toNat_eq hop, hrsv, rfl, rfl⟩, hd⟩
  · obtain ⟨harg, rfl⟩ := decodeA_ok.mp h
    exact ⟨⟨BitVec.eq_of_toNat_eq hop, hrsv, rfl, harg⟩, rfl⟩
  · obtain ⟨hd, rfl⟩ := decodeW_ok.mp h
    exact ⟨⟨BitVec.eq_of_toNat_eq hop, hrsv, rfl, rfl⟩, hd⟩
  · obtain ⟨harg, rfl⟩ := decodeA_ok.mp h
    exact ⟨⟨BitVec.eq_of_toNat_eq hop, hrsv, rfl, harg⟩, rfl⟩
  · obtain rfl := decodeL_ok.mp h
    exact ⟨⟨BitVec.eq_of_toNat_eq hop, hrsv, rfl, rfl⟩, rfl⟩
  · obtain rfl := decodeL_ok.mp h
    exact ⟨⟨BitVec.eq_of_toNat_eq hop, hrsv, rfl, rfl⟩, rfl⟩
  · obtain rfl := decodeL_ok.mp h
    exact ⟨⟨BitVec.eq_of_toNat_eq hop, hrsv, rfl, rfl⟩, rfl⟩
  · obtain rfl := decodeL_ok.mp h
    exact ⟨⟨BitVec.eq_of_toNat_eq hop, hrsv, rfl, rfl⟩, rfl⟩
  · obtain ⟨haddr, harg, rfl⟩ := decodeN_ok.mp h
    exact ⟨⟨BitVec.eq_of_toNat_eq hop, hrsv, haddr, harg⟩, rfl⟩
  · obtain ⟨haddr, harg, rfl⟩ := decodeN_ok.mp h
    exact ⟨⟨BitVec.eq_of_toNat_eq hop, hrsv, haddr, harg⟩, rfl⟩
  · cases h

/-- The arm of the decoder that an operation's opcode selects gives the operation back. -/
theorem decode_encode (h : WellFormed dw i = true) : decode dw (encode i) = .ok i := by
  obtain ⟨hop, hrsv, haddr, harg⟩ := Laws.Encoding.fields i
  unfold decode
  rw [if_neg (not_not.mpr hrsv), hop]
  cases i with
  | mw a d => exact decodeW_ok.mpr ⟨harg ▸ h, by rw [haddr, harg]; rfl⟩
  | mr a => exact decodeA_ok.mpr ⟨harg, by rw [haddr]; rfl⟩
  | sw a d => exact decodeW_ok.mpr ⟨harg ▸ h, by rw [haddr, harg]; rfl⟩
  | sr a => exact decodeA_ok.mpr ⟨harg, by rw [haddr]; rfl⟩
  | lmw a n => exact decodeL_ok.mpr (by rw [haddr, harg]; rfl)
  | lmr a n => exact decodeL_ok.mpr (by rw [haddr, harg]; rfl)
  | lsw a n => exact decodeL_ok.mpr (by rw [haddr, harg]; rfl)
  | lsr a n => exact decodeL_ok.mpr (by rw [haddr, harg]; rfl)
  | isend => exact decodeN_ok.mpr ⟨haddr, harg, rfl⟩
  | irecv => exact decodeN_ok.mpr ⟨haddr, harg, rfl⟩

theorem decode_ok_iff : decode dw cw = .ok i ↔ encode i = cw ∧ WellFormed dw i = true :=
  ⟨encode_of_decode, fun ⟨he, hw⟩ => he ▸ decode_encode hw⟩

/-- Settles O2: the fields of an encoding are the operation's own, and its arm of the decoder reads them back. -/
theorem decodeOfEncode : Obligations.DecodeOfEncode := fun _ _ => decode_encode

/-- Settles O3: a word is its four fields, and each arm of the decoder says what they are. -/
theorem encodeOfDecode : Obligations.EncodeOfDecode := fun _ _ _ => encode_of_decode

/-- Settles O1, by running the decoder on the fifteen words of R71. -/
theorem workedEncodingsDecode : Obligations.WorkedEncodingsDecode := by
  unfold Obligations.WorkedEncodingsDecode; decide

/-! ## Masks and matches (R65) -/

/-- The fields of a word put together from four, of which the encodings of the operations are one case. -/
theorem CommandWord.fields_append (o : BitVec 4) (r : BitVec 12) (a : Addr) (g : BitVec 32) :
    CommandWord.op (o ++ r ++ a ++ g) = o ∧ CommandWord.rsv (o ++ r ++ a ++ g) = r ∧
    CommandWord.addr (o ++ r ++ a ++ g) = a ∧ CommandWord.arg (o ++ r ++ a ++ g) = g := by
  simp only [CommandWord.op, CommandWord.rsv, CommandWord.addr, CommandWord.arg]
  refine ⟨?_, ?_, ?_, ?_⟩ <;> ext j hj <;> simp only [BitVec.getElem_extractLsb', BitVec.getLsbD_append] <;> grind

/-- No bit at or above `DATA_WIDTH`: none under the mask of those bits. -/
theorem DataWidth.fits_iff_and (w : Word) : dw.fits w = true ↔ w &&& BitVec.allOnes 32 <<< dw.bits = 0 := by
  have hle : w.toNat / 2 ^ dw.bits * 2 ^ dw.bits < 2 ^ 32 := (Nat.div_mul_le_self _ _).trans_lt w.isLt
  rw [← BitVec.shiftLeft_ushiftRight, DataWidth.fits, decide_eq_true_iff, ← BitVec.toNat_inj, BitVec.toNat_shiftLeft,
    BitVec.toNat_ushiftRight, Nat.shiftRight_eq_div_pow, Nat.shiftLeft_eq, Nat.mod_eq_of_lt hle]
  simp

/-- The bits of `addr` that a format must have zero (R59). -/
def Format.addrMask : Format → Addr
  | .w => 0
  | .a => 0
  | .l => 0
  | .n => BitVec.allOnes 16

/-- The bits of `arg` that a format must have zero for a `DATA_WIDTH` (R59). -/
def Format.argMask (dw : DataWidth) : Format → BitVec 32
  | .w => BitVec.allOnes 32 <<< dw.bits
  | .a => BitVec.allOnes 32
  | .l => 0
  | .n => BitVec.allOnes 32

/-- The mask of a format: `op`, `rsv` and what must be zero (R65). -/
def Format.mask (dw : DataWidth) (f : Format) : CommandWord :=
  BitVec.allOnes 4 ++ BitVec.allOnes 12 ++ f.addrMask ++ f.argMask dw

/-- The mask of a format and the match of an opcode select the words with that opcode, a zero `rsv` and zeros where the
format has them. -/
theorem and_mask_eq_iff (f : Format) (dw : DataWidth) (o : BitVec 4) (cw : CommandWord) :
    cw &&& f.mask dw = o ++ 0#12 ++ 0#16 ++ 0#32 ↔
      CommandWord.op cw = o ∧ CommandWord.rsv cw = 0 ∧
      CommandWord.addr cw &&& f.addrMask = 0 ∧ CommandWord.arg cw &&& f.argMask dw = 0 := by
  rw [Format.mask, ← CommandWord.append_fields cw, BitVec.and_append, BitVec.and_append, BitVec.and_append,
    CommandWord.eq_iff_fields]
  simp only [CommandWord.fields_append, BitVec.and_allOnes]
  rfl

/-- Settles O4: by format, width and opcode each row is `and_mask_eq_iff`, and a word decodes to the row's operation exactly
when it has the fields that selects. -/
theorem maskAndMatchSelect : Obligations.MaskAndMatchSelect := by
  intro cw
  refine ⟨.trans ?_ (and_mask_eq_iff .w .w32 0x0 cw).symm, .trans ?_ (and_mask_eq_iff .a .w32 0x1 cw).symm,
    .trans ?_ (and_mask_eq_iff .w .w32 0x2 cw).symm, .trans ?_ (and_mask_eq_iff .a .w32 0x3 cw).symm,
    .trans ?_ (and_mask_eq_iff .l .w32 0x4 cw).symm, .trans ?_ (and_mask_eq_iff .l .w32 0x5 cw).symm,
    .trans ?_ (and_mask_eq_iff .l .w32 0x6 cw).symm, .trans ?_ (and_mask_eq_iff .l .w32 0x7 cw).symm,
    .trans ?_ (and_mask_eq_iff .n .w32 0x8 cw).symm, .trans ?_ (and_mask_eq_iff .n .w32 0x9 cw).symm,
    .trans ?_ (and_mask_eq_iff .w .w16 0x0 cw).symm, .trans ?_ (and_mask_eq_iff .w .w16 0x2 cw).symm,
    .trans ?_ (and_mask_eq_iff .w .w8 0x0 cw).symm, .trans ?_ (and_mask_eq_iff .w .w8 0x2 cw).symm⟩
  all_goals
    simp [-BitVec.reduceAllOnes, decode_ok_iff, encode_eq_iff, Instr.opcode, Instr.addrField, Instr.argField, WellFormed,
      Format.addrMask, Format.argMask, DataWidth.fits_iff_and, and_assoc]

/-! ## Illegal words (R62, R63) -/

/-- What the decoder rejects: the first three cases of R63. -/
theorem decode_error_iff :
    (∃ e, decode dw cw = .error e) ↔
      CommandWord.rsv cw ≠ 0 ∨
      9 < (CommandWord.op cw).toNat ∨
      ((CommandWord.op cw = 0x0 ∨ CommandWord.op cw = 0x2) ∧ 2 ^ dw.bits ≤ (CommandWord.arg cw).toNat) ∨
      ((CommandWord.op cw = 0x1 ∨ CommandWord.op cw = 0x3) ∧ CommandWord.arg cw ≠ 0) ∨
      ((CommandWord.op cw = 0x8 ∨ CommandWord.op cw = 0x9) ∧ (CommandWord.addr cw ≠ 0 ∨ CommandWord.arg cw ≠ 0)) := by
  simp only [← BitVec.toNat_inj (x := CommandWord.op cw)]
  unfold decode
  split
  case isTrue hrsv => exact iff_of_true ⟨_, rfl⟩ (.inl hrsv)
  case isFalse hrsv =>
    rw [or_iff_right hrsv]
    split
    case h_11 => exact iff_of_true ⟨_, rfl⟩ (.inl (by grind))
    all_goals
      rename_i hop
      simp [hop, decodeW_error, decodeA_error, decodeN_error, decodeL]

/-- The opcodes that each kind of unit accepts (R62). -/
def UnitKind.Accepts (kind : UnitKind) (o : BitVec 4) : Prop :=
  (kind = .master ∧ o ∈ [0x0#4, 0x1#4, 0x4#4, 0x5#4]) ∨
  (kind = .slave ∧ o ∈ [0x2#4, 0x3#4, 0x6#4, 0x7#4]) ∨
  (kind = .sender ∧ o = 0x8) ∨
  (kind = .receiver ∧ o = 0x9)

theorem UnitKind.accepts_opcode {kind : UnitKind} : kind.Accepts i.opcode ↔ i.acceptedBy = kind := by
  cases i <;> simp [UnitKind.Accepts, Instr.acceptedBy, Instr.opcode, eq_comm]

/-- A unit rejects what the decoder rejects and, by its opcode, every operation of another kind of unit. -/
theorem decodeFor_error_iff {kind : UnitKind} :
    (∃ e, decodeFor kind dw cw = .error e) ↔
      (∃ e, decode dw cw = .error e) ∨ ¬ kind.Accepts (CommandWord.op cw) := by
  unfold decodeFor
  cases h : decode dw cw with
  | error e => simp
  | ok i =>
    obtain ⟨hop, -⟩ := encode_eq_iff.mp (encode_of_decode h).1
    rw [hop, UnitKind.accepts_opcode]
    by_cases hk : i.acceptedBy = kind <;> simp [hk]

/-- Settles O5: the decoder's own rejections, and the words of operations that another kind of unit accepts. -/
theorem illegalWordsAreExactlyThese : Obligations.IllegalWordsAreExactlyThese := by
  intro kind dw cw
  rw [decodeFor_error_iff, decode_error_iff]
  simp only [or_assoc, UnitKind.Accepts]

end Sys2Proof
end

section
/-! The refusal of a buffer that is too short, at the issue of a link-level operation (30_encoding.md R69, U8). -/

namespace Sys2Proof.Machine

variable {s : State} {a : Addr} {n : Len}

theorem issueLink_shortBuffer {l : Len → State → State} (h : s.handed.size < n.toNat) :
    issueLink n l s = .refused .shortBuffer := if_neg h.not_ge

/-- An idle `MU` is in its phase `IDLE`. -/
theorem State.Idle.mu_phase (hi : s.Idle .mu) : s.mu.phase = .idle := (MasterUnit.current_eq_none _).mp hi.2

/-- An idle `SU[k]` is in its phase `IDLE`. -/
theorem State.Idle.su_phase {k : Nat} {u : SlaveUnit} (hi : s.Idle (.su k)) (hu : s.su[k]? = some u) :
    u.phase = .idle :=
  (SlaveUnit.current_eq_none u).mp (by simpa [State.current, hu] using hi.2)

theorem execLmw_shortBuffer (hi : s.Idle .mu) (h : s.handed.size < n.toNat) :
    execLmw a n s = .refused .shortBuffer := by
  simp [execLmw, hi.1, hi.mu_phase, issueLink_shortBuffer h]

theorem execLmr_shortBuffer (hi : s.Idle .mu) (h : s.handed.size < n.toNat) :
    execLmr a n s = .refused .shortBuffer := by
  simp [execLmr, hi.1, hi.mu_phase, issueLink_shortBuffer h]

theorem execLsw_shortBuffer {k : Nat} {u : SlaveUnit} (hi : s.Idle (.su k)) (hu : s.su[k]? = some u)
    (h : s.handed.size < n.toNat) : execLsw a n s = .refused .shortBuffer := by
  simp [execLsw, withSlave, hi.1, hu, hi.su_phase hu, issueLink_shortBuffer h]

theorem execLsr_shortBuffer {k : Nat} {u : SlaveUnit} (hi : s.Idle (.su k)) (hu : s.su[k]? = some u)
    (h : s.handed.size < n.toNat) : execLsr a n s = .refused .shortBuffer := by
  simp [execLsr, withSlave, hi.1, hu, hi.su_phase hu, issueLink_shortBuffer h]

/-- Settles O20: each of the four reaches `issueLink` on an idle unit of its kind. -/
theorem shortBufferIsRefused : Obligations.ShortBufferIsRefused :=
  fun _ _ _ h => ⟨fun hi => ⟨execLmw_shortBuffer hi h, execLmr_shortBuffer hi h⟩,
    fun _ _ hi hu => ⟨execLsw_shortBuffer hi hu h, execLsr_shortBuffer hi hu h⟩⟩

end Sys2Proof.Machine
end

section
/-! Which move comes next (40_execution_model.md R77, R85, R89, R90): the choice among the units that can move, the time
`ADVANCE` goes to, and the end of the run. -/

namespace Sys2Proof.Machine

variable {s t r : State} {u : UnitId}

/-! ## The units that can move -/

theorem State.movable_iff : s.movable u = true ↔ s.enabled u = true ∨ ∃ c, s.dueCommand u = some c := by
  simp [State.movable, Option.isSome_iff_exists]

theorem State.mem_moves_iff :
    u ∈ s.moves ↔ u ∈ s.units ∧ (s.enabled u = true ∨ ∃ c, s.dueCommand u = some c) := by
  rw [State.moves, List.mem_filter, State.movable_iff]

theorem State.moves_eq_nil_iff :
    s.moves = [] ↔ ∀ u ∈ s.units, s.enabled u = false ∧ s.dueCommand u = none := by
  simp [State.moves, State.movable]

/-- Settles O12: the choice is made among `moves`, and is none only where that list is empty. -/
theorem theChosenUnitCanMove : Obligations.TheChosenUnitCanMove := by
  refine fun s => ⟨fun u r h => ?_, State.choose_none.trans State.moves_eq_nil_iff⟩
  obtain ⟨hm, ag, tk, rfl⟩ := State.choose_some h
  obtain ⟨hu, hmove⟩ := State.mem_moves_iff.mp hm
  exact ⟨hu, hmove, rfl⟩

/-! ## The order -/

/-- The head of the agenda is chosen where it can move. -/
theorem State.choose_head {rest : List UnitId} (ha : s.agenda = u :: rest) (hu : u ∈ s.moves) :
    s.choose = some (u, { s with agenda := rest }) := by
  unfold State.choose
  split
  case h_1 hm => rw [hm] at hu; cases hu
  case h_2 v vs hm => rw [ha]; exact if_pos (hm ▸ hu)

theorem step_of_choose (hl : s.cfg.legal = true) (h : s.choose = some (u, r)) : step s = move u r := by
  simp [step, stepOnce, hl, h]

/-- Settles O13: the head of the agenda is chosen, and the step is its move. -/
theorem everyOrderIsPossible : Obligations.EveryOrderIsPossible := by
  intro s u rest hl hu hm
  have hmem : u ∈ s.moves := State.mem_moves_iff.mpr ⟨hu, hm⟩
  exact step_of_choose hl (State.choose_head (s := { s with agenda := u :: rest }) rfl hmem)

theorem issueMove_ok {c : Command} {i : Instr} (h : decodeFor u.kind s.cfg.dataWidth c.word = .ok i) :
    issueMove u c s = exec i (s.present u c) := by
  simp only [issueMove, h]

theorem issueMove_error {c : Command} {e : DecodeError} (h : decodeFor u.kind s.cfg.dataWidth c.word = .error e) :
    issueMove u c s = .refused (.illegalCommand e) := by
  simp only [issueMove, h]

/-- Settles O10: the step is the chosen unit's move, which is read off its operation or its due command. -/
theorem stepRunsTheDecodedOperation : Obligations.StepRunsTheDecodedOperation := by
  intro s r u hl hc
  rw [step_of_choose hl hc]
  refine ⟨fun i hi => ?_, fun c i hn hd hi => ?_, fun c e hn hd he => ?_⟩
  · rw [move, hi]; rfl
  · rw [move, hn, hd]; exact issueMove_ok hi
  · rw [move, hn, hd]; exact issueMove_error he

/-! ## Time -/

theorem leastAbove_eq_some_iff {b n : Nat} {ts : List Nat} :
    leastAbove b ts = some n ↔ n ∈ ts ∧ b < n ∧ ∀ m ∈ ts, b < m → n ≤ m := by
  refine ⟨leastAbove_some, fun ⟨hn, hb, hle⟩ => ?_⟩
  cases h : leastAbove b ts with
  | none => have := leastAbove_none.mp h n hn; omega
  | some m =>
    obtain ⟨hm, hbm, hmle⟩ := leastAbove_some h
    rw [Nat.le_antisymm (hmle n hn hb) (hle m hm hbm)]

/-- A unit's move takes no time. -/
theorem move_now (h : move u s = .next t) : t.now = s.now := by
  have hs : t.shape = s.shape := by
    rcases move_next.mp h with ⟨i, -, he⟩ | ⟨-, c, i, -, -, he⟩
    · exact exec_shape (s := s.select u) he
    · exact (exec_shape he).trans (s.present_shape u c)
  obtain ⟨-, hn, -⟩ := State.shape_eq_iff.mp hs
  exact hn

theorem ReceiverUnit.sample_eq (c : Config) (intr : Bool) (a b : Nat) (v : ReceiverUnit) :
    ∃ p, v.sample c intr a b = { v with prev := p } ∧ (c.clocked = false → p = v.prev) := by
  unfold ReceiverUnit.sample
  split
  case isTrue hc => exact ⟨intr, rfl, fun hn => by simp [hn] at hc⟩
  case isFalse => exact ⟨v.prev, rfl, fun _ => rfl⟩

/-- Settles O14: `ADVANCE` is the step where no unit is chosen, and only it changes `now`. -/
theorem timeAdvancesOnlyWhenNothingCanRun : Obligations.TimeAdvancesOnlyWhenNothingCanRun := by
  intro s hl
  refine ⟨fun n hq hn => ⟨(s.advance n).rcv, ?_, ?_, fun hc => ?_⟩, fun t hs ht => ?_⟩
  · have hc : s.choose = none := State.choose_none.mpr (State.moves_eq_nil_iff.mpr hq)
    exact step_next.mpr ⟨hl, .inr ⟨hc, n, leastAbove_eq_some_iff.mpr hn, rfl⟩⟩
  · rw [State.advance_rcv, List.map_map]
    refine List.map_congr_left fun v _ => ?_
    obtain ⟨p, hp, -⟩ := ReceiverUnit.sample_eq s.cfg s.intr s.now n v
    simp [hp]
  · rw [State.advance_rcv]
    refine List.map_id'' (fun v => ?_) s.rcv
    obtain ⟨p, hp, hv⟩ := ReceiverUnit.sample_eq s.cfg s.intr s.now n v
    rw [hp, hv hc]
  · obtain ⟨-, ⟨u, r, hc, hm⟩ | ⟨hc, n, hn, rfl⟩⟩ := step_next.mp hs
    · obtain ⟨-, ag, tk, rfl⟩ := State.choose_some hc
      exact absurd (move_now hm) ht
    · exact ⟨State.moves_eq_nil_iff.mp (State.choose_none.mp hc), leastAbove_some hn⟩

end Sys2Proof.Machine
end

section
/-! The end of a run (40_execution_model.md R90): an operation stops with the fault of an `UNWRITTEN` cell and no other, so
only a step without a move reports the run finished or stuck. -/

namespace Sys2Proof.Machine

variable {s t : State} {u : UnitId}

/-! ## The one fault of the operations -/

/-- The only fault an answer may be is that of a cell nothing has driven (10_state.md R22). -/
def FaultsOnlyUnwritten (A : Answer) : Prop := ∀ f, A = .fault f → ∃ c, f = .unwritten c

namespace FaultsOnlyUnwritten

theorem next (s : State) : FaultsOnlyUnwritten (.next s) := nofun

theorem unwritten (c : CellName) : FaultsOnlyUnwritten (.fault (.unwritten c)) :=
  fun _ h => ⟨c, by cases h; rfl⟩

theorem ite {p : Prop} [Decidable p] {A B : Answer} (hA : FaultsOnlyUnwritten A) (hB : FaultsOnlyUnwritten B) :
    FaultsOnlyUnwritten (if p then A else B) := by
  split
  · exact hA
  · exact hB

theorem readCell {α : Type} {c : CellName} {v : Option α} {rest : α → Answer}
    (h : ∀ x, FaultsOnlyUnwritten (rest x)) : FaultsOnlyUnwritten (readCell c v rest) := by
  cases v with
  | none => exact unwritten c
  | some x => exact h x

theorem issue (i : Instr) (l : State) : FaultsOnlyUnwritten (issue i l s) := ite nofun nofun

theorem issueLink (n : Len) (l : Len → State → State) : FaultsOnlyUnwritten (issueLink n l s) := ite nofun nofun

/-! ### `MU` -/

theorem runMaster {seg : State → Answer} (h : ∀ s, FaultsOnlyUnwritten (seg s)) :
    FaultsOnlyUnwritten (runMaster seg s) := ite (h _) nofun

theorem muWaitUntil {p : MasterPhase} {g : Signal} {v : Bool} {rest : State → Answer}
    (h : ∀ s, FaultsOnlyUnwritten (rest s)) : FaultsOnlyUnwritten (muWaitUntil p g v rest s) := ite (h _) nofun

theorem mrSample (c : CellName) (cell : Option Word) (p : MrPoint) : FaultsOnlyUnwritten (mrSample c cell p s) :=
  readCell fun _ => nofun

theorem mwSegment {ret : State → Answer} (h : ∀ s, FaultsOnlyUnwritten (ret s)) (p : MwPoint) (s : State) :
    FaultsOnlyUnwritten (mwSegment ret p s) := by
  cases p with
  | start | txnSetup | txnWaitAck => exact nofun
  | setup | waitAck => exact muWaitUntil fun _ => next _
  | hold | waitRel => exact muWaitUntil h
  | txnHold => exact h s

theorem mrSegment {ret : State → Answer} (h : ∀ s, FaultsOnlyUnwritten (ret s)) (p : MrPoint) (s : State) :
    FaultsOnlyUnwritten (mrSegment ret p s) := by
  cases p with
  | start | txnSetup => exact nofun
  | setup | waitAck => exact muWaitUntil fun _ => mrSample _ _ _
  | hold | waitRel => exact muWaitUntil h
  | txnWaitAck => exact mrSample _ _ _
  | txnHold => exact h s

theorem lmwContinue (r : Link × Bool) : FaultsOnlyUnwritten (lmwContinue r s) := ite nofun nofun

theorem lmrContinue (r : Link × Bool) : FaultsOnlyUnwritten (lmrContinue r s) := ite nofun nofun

theorem execMw (a : Addr) (d : Word) : FaultsOnlyUnwritten (execMw a d s) := by
  unfold Machine.execMw
  refine ite nofun ?_
  cases s.mu.phase with
  | idle => exact issue _ _
  | mw p => exact ite (runMaster (mwSegment (fun _ => next _) p)) nofun
  | mr | lmwStart | lmrStart => exact nofun

theorem execMr (a : Addr) : FaultsOnlyUnwritten (execMr a s) := by
  unfold Machine.execMr
  refine ite nofun ?_
  cases s.mu.phase with
  | idle => exact issue _ _
  | mr p => exact ite (runMaster (mrSegment (fun _ => next _) p)) nofun
  | mw | lmwStart | lmrStart => exact nofun

theorem execLmw (a : Addr) (n : Len) : FaultsOnlyUnwritten (execLmw a n s) := by
  unfold Machine.execLmw
  refine ite nofun ?_
  cases s.mu.phase with
  | idle => exact issueLink _ _
  | lmwStart => exact ite (runMaster fun _ => lmwContinue _) nofun
  | mw p => exact ite (runMaster (mwSegment (fun _ => lmwContinue _) p)) nofun
  | mr | lmrStart => exact nofun

theorem execLmr (a : Addr) (n : Len) : FaultsOnlyUnwritten (execLmr a n s) := by
  unfold Machine.execLmr
  refine ite nofun ?_
  cases s.mu.phase with
  | idle => exact issueLink _ _
  | lmrStart => exact ite (runMaster fun _ => lmrContinue _) nofun
  | mr p => exact ite (runMaster (mrSegment (fun _ => lmrContinue _) p)) nofun
  | mw | lmwStart => exact nofun

/-! ### `SU[k]` -/

theorem withSlave {m : Nat → SlaveUnit → Answer} (h : ∀ k u, FaultsOnlyUnwritten (m k u)) :
    FaultsOnlyUnwritten (withSlave m s) := by
  unfold Machine.withSlave
  cases s.sel with
  | su k =>
    dsimp only
    cases s.su[k]? with
    | some u => exact h k u
    | none => exact nofun
  | mu | is | ir => exact nofun

theorem runSlave {k : Nat} {u : SlaveUnit} {seg : SlaveUnit → State → Answer}
    (h : ∀ u s, FaultsOnlyUnwritten (seg u s)) : FaultsOnlyUnwritten (runSlave k u seg s) := ite (h _ _) nofun

theorem takeMatch (dir : SlaveDir) (rest : State → State) : FaultsOnlyUnwritten (takeMatch dir rest s) :=
  ite nofun (ite nofun nofun)

section
variable {k : Nat} {u : SlaveUnit}

theorem servePin : FaultsOnlyUnwritten (servePin k u s) := by
  unfold Machine.servePin
  cases u.dir with
  | capture => exact readCell fun _ => takeMatch _ _
  | drive => exact takeMatch _ _

theorem serveTxn : FaultsOnlyUnwritten (serveTxn k u s) := by
  unfold Machine.serveTxn
  cases u.dir with
  | capture => exact readCell fun _ => takeMatch _ _
  | drive => exact takeMatch _ _

theorem suAwaitReady : FaultsOnlyUnwritten (suAwaitReady k u s) :=
  ite (readCell fun _ => ite servePin nofun) nofun

theorem slaveBegin : FaultsOnlyUnwritten (slaveBegin k u s) := by
  unfold Machine.slaveBegin
  cases s.cfg.variant with
  | pin => exact suAwaitReady
  | txn => exact nofun

end

theorem slaveSegment {k : Nat} {ret : SlaveUnit → State → Answer} (h : ∀ u s, FaultsOnlyUnwritten (ret u s))
    (p : SlavePoint) (u : SlaveUnit) (s : State) : FaultsOnlyUnwritten (slaveSegment k ret p u s) := by
  cases p with
  | start => exact slaveBegin
  | waitReady | backoff => exact suAwaitReady
  | service | waitRel => exact ite nofun nofun
  | ackRel | txnAckRel => exact h _ _
  | txnWaitReady => exact readCell fun _ => ite serveTxn nofun
  | txnService => exact nofun

theorem lswContinue (k : Nat) (r : Link × Bool) (u : SlaveUnit) (s : State) :
    FaultsOnlyUnwritten (lswContinue k r u s) := ite slaveBegin nofun

theorem lsrContinue (k : Nat) (r : Link × Bool) (u : SlaveUnit) (s : State) :
    FaultsOnlyUnwritten (lsrContinue k r u s) := ite slaveBegin nofun

theorem execSr (a : Addr) : FaultsOnlyUnwritten (execSr a s) := withSlave fun k u => by
  cases u.phase with
  | idle => exact issue _ _
  | word p => exact ite (runSlave (slaveSegment (fun _ _ => next _) p)) nofun
  | lswStart | lsrStart => exact nofun

theorem execSw (a : Addr) (d : Word) : FaultsOnlyUnwritten (execSw a d s) := withSlave fun k u => by
  cases u.phase with
  | idle => exact issue _ _
  | word p => exact ite (runSlave (slaveSegment (fun _ _ => next _) p)) nofun
  | lswStart | lsrStart => exact nofun

theorem execLsw (a : Addr) (n : Len) : FaultsOnlyUnwritten (execLsw a n s) := withSlave fun k u => by
  cases u.phase with
  | idle => exact issueLink _ _
  | lswStart => exact ite (runSlave fun v _ => lswContinue k _ v _) nofun
  | word p => exact ite (runSlave (slaveSegment (fun v _ => lswContinue k _ v _) p)) nofun
  | lsrStart => exact nofun

theorem execLsr (a : Addr) (n : Len) : FaultsOnlyUnwritten (execLsr a n s) := withSlave fun k u => by
  cases u.phase with
  | idle => exact issueLink _ _
  | lsrStart => exact ite (runSlave fun v _ => lsrContinue k _ v _) nofun
  | word p => exact ite (runSlave (slaveSegment (fun v _ => lsrContinue k _ v _) p)) nofun
  | lswStart => exact nofun

/-! ### `IS` and `IR[j]` -/

theorem execIsend : FaultsOnlyUnwritten (execIsend s) := by
  unfold Machine.execIsend
  refine ite nofun ?_
  cases s.snd.phase with
  | idle => exact issue _ _
  | start | pulse => exact ite nofun nofun

theorem withReceiver {m : Nat → ReceiverUnit → Answer} (h : ∀ j u, FaultsOnlyUnwritten (m j u)) :
    FaultsOnlyUnwritten (withReceiver m s) := by
  unfold Machine.withReceiver
  cases s.sel with
  | ir j =>
    dsimp only
    cases s.rcv[j]? with
    | some u => exact h j u
    | none => exact nofun
  | mu | is | su => exact nofun

theorem execIrecv : FaultsOnlyUnwritten (execIrecv s) := withReceiver fun j u => by
  cases u.phase with
  | idle => exact issue _ _
  | start | armed => exact ite nofun nofun

theorem exec (i : Instr) : FaultsOnlyUnwritten (exec i s) := by
  cases i with
  | mw a d => exact execMw a d
  | mr a => exact execMr a
  | sw a d => exact execSw a d
  | sr a => exact execSr a
  | lmw a n => exact execLmw a n
  | lmr a n => exact execLmr a n
  | lsw a n => exact execLsw a n
  | lsr a n => exact execLsr a n
  | isend => exact execIsend
  | irecv => exact execIrecv

theorem move (u : UnitId) : FaultsOnlyUnwritten (move u s) := by
  unfold Machine.move
  cases s.current u with
  | some i => exact exec i
  | none =>
    dsimp only
    cases s.dueCommand u with
    | none => exact nofun
    | some c =>
      dsimp only [issueMove]
      cases decodeFor u.kind s.cfg.dataWidth c.word with
      | ok i => exact exec i
      | error e => exact nofun

end FaultsOnlyUnwritten

/-! ## The end of the run -/

theorem State.portOf_isSome (h : u ∈ s.units) : (s.portOf u).isSome = true := by
  cases u with
  | mu | is => rfl
  | su k => simpa [State.units, State.portOf] using h
  | ir j => simpa [State.units, State.portOf] using h

/-- The run is over where every unit rests. -/
theorem State.allDone_iff : s.allDone = true ↔ ∀ u ∈ s.units, s.Rests u := by
  simp only [State.allDone, List.all_eq_true, Bool.and_eq_true, Option.isNone_iff_eq_none]
  refine forall₂_congr fun u hu => and_congr_right fun _ => ?_
  obtain ⟨p, hp⟩ := Option.isSome_iff_exists.mp (State.portOf_isSome hu)
  simp [hp]

theorem step_of_quiescent (hl : s.cfg.legal = true) (hq : s.Quiescent) :
    step s = if s.allDone then .fault .finished else .fault .stuck := by
  obtain ⟨hm, hn⟩ := hq
  simp [step, stepOnce, hl, State.choose_none.mpr hm, hn]

theorem quiescent_of_step_fault {f : Fault} (h : step s = .fault f) (hf : ∀ c, f ≠ .unwritten c) : s.Quiescent := by
  unfold step stepOnce at h
  split at h
  case isFalse => cases h
  case isTrue =>
    split at h
    case h_1 =>
      obtain ⟨c, rfl⟩ := FaultsOnlyUnwritten.move _ f h
      exact absurd rfl (hf c)
    case h_2 hc =>
      split at h
      case h_1 => cases h
      case h_2 hn => exact ⟨State.choose_none.mp hc, hn⟩

/-- Settles O17: no move reports the end of the run, and in a quiescent state the step asks whether every unit rests. -/
theorem finishedOrStuck : Obligations.FinishedOrStuck := by
  refine fun s hl => ⟨?_, fun hq hr => ?_, fun hq hr => ?_⟩
  · rintro (h | h)
    · exact quiescent_of_step_fault h nofun
    · exact quiescent_of_step_fault h nofun
  · rw [step_of_quiescent hl hq, if_pos (State.allDone_iff.mpr hr)]
  · rw [step_of_quiescent hl hq, if_neg (mt State.allDone_iff.mp hr)]

end Sys2Proof.Machine
end

section
/-! ISSUE of the word-level operations, and the moves that the spec does not have: an operation put to a unit that is
carrying out another or is not enabled, or to a unit of another kind (40_execution_model.md R75, R78, R88). -/

namespace Sys2Proof.Machine

variable {s : State}

/-- Settles O18: each meaning issues to an idle unit of its kind. -/
theorem issueLatchesWordOperands : Obligations.IssueLatchesWordOperands :=
  ⟨fun _ _ _ hi hw => execMw_next.mpr ⟨hi.1, .inl ⟨hi.mu_phase, hw, rfl⟩⟩,
    fun _ _ hi => execMr_next.mpr ⟨hi.1, .inl ⟨hi.mu_phase, rfl⟩⟩,
    fun _ k u _ hi hu => execSr_next.mpr ⟨k, u, hi.1, hu, .inl ⟨hi.su_phase hu, rfl⟩⟩,
    fun _ k u _ _ hi hu hw => execSw_next.mpr ⟨k, u, hi.1, hu, .inl ⟨hi.su_phase hu, hw, rfl⟩⟩⟩

/-! ## A unit of another kind -/

theorem UnitId.kind_eq_master {u : UnitId} : u.kind = .master ↔ u = .mu := by
  cases u <;> simp [UnitId.kind]

theorem UnitId.kind_eq_sender {u : UnitId} : u.kind = .sender ↔ u = .is := by
  cases u <;> simp [UnitId.kind]

theorem UnitId.kind_eq_slave {u : UnitId} : u.kind = .slave ↔ ∃ k, u = .su k := by
  cases u <;> simp [UnitId.kind]

theorem UnitId.kind_eq_receiver {u : UnitId} : u.kind = .receiver ↔ ∃ j, u = .ir j := by
  cases u <;> simp [UnitId.kind]

theorem withSlave_wrongUnit {m : Nat → SlaveUnit → Answer} (h : s.sel.kind ≠ .slave) :
    withSlave m s = .refused .wrongUnit := by
  unfold withSlave
  cases hs : s.sel with
  | su k => exact absurd (UnitId.kind_eq_slave.mpr ⟨k, hs⟩) h
  | mu | is | ir => rfl

theorem withReceiver_wrongUnit {m : Nat → ReceiverUnit → Answer} (h : s.sel.kind ≠ .receiver) :
    withReceiver m s = .refused .wrongUnit := by
  unfold withReceiver
  cases hs : s.sel with
  | ir j => exact absurd (UnitId.kind_eq_receiver.mpr ⟨j, hs⟩) h
  | mu | su | is => rfl

theorem exec_wrongUnit {i : Instr} (h : s.sel.kind ≠ i.acceptedBy) : exec i s = .refused .wrongUnit := by
  cases i with
  | mw | mr | lmw | lmr => exact if_pos (mt UnitId.kind_eq_master.mpr h)
  | sw | sr | lsw | lsr => exact withSlave_wrongUnit h
  | isend => exact if_pos (mt UnitId.kind_eq_sender.mpr h)
  | irecv => exact withReceiver_wrongUnit h

/-! ## A unit that is busy or not enabled -/

/-- The answer is a refusal, as busy where the operation is not the unit's own. -/
def RefusedAsBusy (own : Prop) (A : Answer) : Prop := ∃ e, A = .refused e ∧ (¬ own → e = .busy)

namespace RefusedAsBusy

variable {own : Prop}

theorem busy : RefusedAsBusy own (.refused .busy) := ⟨_, rfl, fun _ => rfl⟩

/-- The arm of a meaning that runs its own segment, where the unit is enabled, and refuses another's operation. -/
theorem run [Decidable own] {enabled : Prop} [Decidable enabled] {A : Answer} (he : own → ¬ enabled) :
    RefusedAsBusy own (if own then (if enabled then A else .refused .notEnabled) else .refused .busy) := by
  split
  case isTrue ho => rw [if_neg (he ho)]; exact ⟨_, rfl, fun hn => absurd ho hn⟩
  case isFalse => exact busy

section
variable {a : Addr} {d : Word} {n : Len} (hsel : s.sel = .mu) (hp : s.mu.phase ≠ .idle)
include hsel hp

theorem execMw (he : s.mu.current = some (.mw a d) → ¬ s.enabled .mu = true) :
    RefusedAsBusy (s.mu.current = some (.mw a d)) (execMw a d s) := by
  unfold Machine.execMw
  rw [if_neg (not_not.mpr hsel)]
  cases h : s.mu.phase with
  | idle => exact absurd h hp
  | mw => exact run he
  | mr | lmwStart | lmrStart => exact busy

theorem execMr (he : s.mu.current = some (.mr a) → ¬ s.enabled .mu = true) :
    RefusedAsBusy (s.mu.current = some (.mr a)) (execMr a s) := by
  unfold Machine.execMr
  rw [if_neg (not_not.mpr hsel)]
  cases h : s.mu.phase with
  | idle => exact absurd h hp
  | mr => exact run he
  | mw | lmwStart | lmrStart => exact busy

theorem execLmw (he : s.mu.current = some (.lmw a n) → ¬ s.enabled .mu = true) :
    RefusedAsBusy (s.mu.current = some (.lmw a n)) (execLmw a n s) := by
  unfold Machine.execLmw
  rw [if_neg (not_not.mpr hsel)]
  cases h : s.mu.phase with
  | idle => exact absurd h hp
  | lmwStart | mw => exact run he
  | mr | lmrStart => exact busy

theorem execLmr (he : s.mu.current = some (.lmr a n) → ¬ s.enabled .mu = true) :
    RefusedAsBusy (s.mu.current = some (.lmr a n)) (execLmr a n s) := by
  unfold Machine.execLmr
  rw [if_neg (not_not.mpr hsel)]
  cases h : s.mu.phase with
  | idle => exact absurd h hp
  | lmrStart | mr => exact run he
  | mw | lmwStart => exact busy

end

section
variable {k : Nat} {u : SlaveUnit} {a : Addr} {d : Word} {n : Len} (hsel : s.sel = .su k) (hk : s.su[k]? = some u)
  (hp : u.phase ≠ .idle)
include hsel hk hp

theorem execSr (he : u.current = some (.sr a) → ¬ s.enabled (.su k) = true) :
    RefusedAsBusy (u.current = some (.sr a)) (execSr a s) := by
  simp only [Machine.execSr, withSlave, hsel, hk]
  cases h : u.phase with
  | idle => exact absurd h hp
  | word => exact run he
  | lswStart | lsrStart => exact busy

theorem execSw (he : u.current = some (.sw a d) → ¬ s.enabled (.su k) = true) :
    RefusedAsBusy (u.current = some (.sw a d)) (execSw a d s) := by
  simp only [Machine.execSw, withSlave, hsel, hk]
  cases h : u.phase with
  | idle => exact absurd h hp
  | word => exact run he
  | lswStart | lsrStart => exact busy

theorem execLsw (he : u.current = some (.lsw a n) → ¬ s.enabled (.su k) = true) :
    RefusedAsBusy (u.current = some (.lsw a n)) (execLsw a n s) := by
  simp only [Machine.execLsw, withSlave, hsel, hk]
  cases h : u.phase with
  | idle => exact absurd h hp
  | lswStart | word => exact run he
  | lsrStart => exact busy

theorem execLsr (he : u.current = some (.lsr a n) → ¬ s.enabled (.su k) = true) :
    RefusedAsBusy (u.current = some (.lsr a n)) (execLsr a n s) := by
  simp only [Machine.execLsr, withSlave, hsel, hk]
  cases h : u.phase with
  | idle => exact absurd h hp
  | lsrStart | word => exact run he
  | lswStart => exact busy

end

/-- ISEND and IRECV are the only operations of their units, so the arms of their segments test no more than `enabled`. -/
theorem runOnly {enabled : Prop} [Decidable enabled] {A : Answer} (ho : own) (he : own → ¬ enabled) :
    RefusedAsBusy own (if enabled then A else .refused .notEnabled) := by
  rw [if_neg (he ho)]
  exact ⟨_, rfl, fun hn => absurd ho hn⟩

theorem execIsend (hsel : s.sel = .is) (hp : s.snd.phase ≠ .idle)
    (he : s.snd.current = some .isend → ¬ s.enabled .is = true) :
    RefusedAsBusy (s.snd.current = some .isend) (execIsend s) := by
  unfold Machine.execIsend
  rw [if_neg (not_not.mpr hsel)]
  cases h : s.snd.phase with
  | idle => exact absurd h hp
  | start | pulse => exact runOnly (by simp [SenderUnit.current, h]) he

theorem execIrecv {j : Nat} {u : ReceiverUnit} (hsel : s.sel = .ir j) (hj : s.rcv[j]? = some u) (hp : u.phase ≠ .idle)
    (he : u.current = some .irecv → ¬ s.enabled (.ir j) = true) :
    RefusedAsBusy (u.current = some .irecv) (execIrecv s) := by
  simp only [Machine.execIrecv, withReceiver, hsel, hj]
  cases h : u.phase with
  | idle => exact absurd h hp
  | start | armed => exact runOnly (by simp [ReceiverUnit.current, h]) he

/-- Every operation put to a unit of its kind that has one in progress, where it is not the unit's own or the unit is not
enabled. -/
theorem exec {i : Instr} (hk : s.sel.kind = i.acceptedBy) (hc : (s.current s.sel).isSome = true)
    (he : s.current s.sel = some i → ¬ s.enabled s.sel = true) :
    RefusedAsBusy (s.current s.sel = some i) (exec i s) := by
  obtain ⟨j, hj⟩ := Option.isSome_iff_exists.mp hc
  cases hsel : s.sel with
  | mu =>
    rw [hsel] at hk hj he
    have hp : s.mu.phase ≠ .idle := fun h => by cases hj.symm.trans ((MasterUnit.current_eq_none _).mpr h)
    cases i with
    | mw => exact execMw hsel hp he
    | mr => exact execMr hsel hp he
    | lmw => exact execLmw hsel hp he
    | lmr => exact execLmr hsel hp he
    | sw | sr | lsw | lsr | isend | irecv => cases hk
  | su k =>
    rw [hsel] at hk hj he
    obtain ⟨u, hu, hcu⟩ := Option.bind_eq_some_iff.mp hj
    have hp : u.phase ≠ .idle := fun h => by cases hcu.symm.trans ((SlaveUnit.current_eq_none _).mpr h)
    have hcur : s.current (.su k) = u.current := by rw [State.current, hu]; rfl
    rw [hcur] at he ⊢
    cases i with
    | sw => exact execSw hsel hu hp he
    | sr => exact execSr hsel hu hp he
    | lsw => exact execLsw hsel hu hp he
    | lsr => exact execLsr hsel hu hp he
    | mw | mr | lmw | lmr | isend | irecv => cases hk
  | is =>
    rw [hsel] at hk hj he
    have hp : s.snd.phase ≠ .idle := fun h => by cases hj.symm.trans ((SenderUnit.current_eq_none _).mpr h)
    cases i with
    | isend => exact execIsend hsel hp he
    | mw | mr | sw | sr | lmw | lmr | lsw | lsr | irecv => cases hk
  | ir m =>
    rw [hsel] at hk hj he
    obtain ⟨u, hu, hcu⟩ := Option.bind_eq_some_iff.mp hj
    have hp : u.phase ≠ .idle := fun h => by cases hcu.symm.trans ((ReceiverUnit.current_eq_none _).mpr h)
    have hcur : s.current (.ir m) = u.current := by rw [State.current, hu]; rfl
    rw [hcur] at he ⊢
    cases i with
    | irecv => exact execIrecv hsel hu hp he
    | mw | mr | sw | sr | lmw | lmr | lsw | lsr | isend => cases hk

end RefusedAsBusy

/-- Settles O21: an operation of the unit's kind is refused by `RefusedAsBusy.exec`, one of another kind before it looks at
the unit. -/
theorem noMoveForABusyOrWrongUnit : Obligations.NoMoveForABusyOrWrongUnit := by
  refine fun s i j => ⟨fun hj hk hij => ?_, fun hi he => ?_, fun hk => exec_wrongUnit (Ne.symm hk)⟩
  · have hown : ¬ s.current s.sel = some i := by simpa [hj] using Ne.symm hij
    obtain ⟨e, hr, hb⟩ := RefusedAsBusy.exec hk.symm (by simp [hj]) (fun h => absurd h hown)
    rw [hr, hb hown]
  · by_cases hk : s.sel.kind = i.acceptedBy
    · obtain ⟨e, hr, -⟩ := RefusedAsBusy.exec hk (by simp [hi]) (fun _ => by simp [he])
      exact ⟨e, hr⟩
    · exact ⟨_, exec_wrongUnit hk⟩

end Sys2Proof.Machine
end

section
/-! A notice and a rising edge: what a wake ends and what it leaves (10_state.md R17; 40_execution_model.md R83, R84). -/

namespace Sys2Proof.Machine

variable {s : State} {w : Susp}

theorem State.wake_suspOf (s : State) (w : Susp) (u : UnitId) :
    (s.wake w).suspOf u = if s.suspOf u = some w then some .none else s.suspOf u := by
  have hclear (x : Option Susp) : x.map (Susp.clear w) = if x = some w then some .none else x := by
    cases x with
    | none => rfl
    | some x => simp [Susp.clear, apply_ite some]
  cases u with
  | mu => exact hclear (s.suspOf .mu)
  | is => exact hclear (s.suspOf .is)
  | su k => simpa [State.suspOf, Function.comp_def] using hclear (s.suspOf (.su k))
  | ir j => simpa [State.suspOf, Function.comp_def] using hclear (s.suspOf (.ir j))

@[simp] theorem State.wake_current (s : State) (w : Susp) (u : UnitId) : (s.wake w).current u = s.current u := by
  cases u with
  | mu | is => rfl
  | su k => simp only [State.current, State.wake_su, List.getElem?_map]; cases s.su[k]? <;> rfl
  | ir j => simp only [State.current, State.wake_rcv, List.getElem?_map]; cases s.rcv[j]? <;> rfl

@[simp] theorem State.wake_portOf (s : State) (w : Susp) (u : UnitId) : (s.wake w).portOf u = s.portOf u := by
  cases u with
  | mu | is => rfl
  | su k => simp only [State.portOf, State.wake_su, List.getElem?_map]; cases s.su[k]? <;> rfl
  | ir j => simp only [State.portOf, State.wake_rcv, List.getElem?_map]; cases s.rcv[j]? <;> rfl

theorem State.wake_keepsAllButSusp (s : State) (w : Susp) : s.UnitsKeepAllButSusp (s.wake w) := by
  refine ⟨rfl, ?_, rfl, ?_⟩
  · rw [State.wake_su, List.map_map]; rfl
  · rw [State.wake_rcv, List.map_map]; rfl

theorem State.mem_units_of_suspOf {u : UnitId} (h : s.suspOf u = some w) : u ∈ s.units := by
  cases u with
  | mu | is => simp [State.units]
  | su k =>
    obtain ⟨v, hk, -⟩ := Option.map_eq_some_iff.mp h
    obtain ⟨hlt, -⟩ := List.getElem?_eq_some_iff.mp hk
    simpa [State.units] using hlt
  | ir j =>
    obtain ⟨v, hj, -⟩ := Option.map_eq_some_iff.mp h
    obtain ⟨hlt, -⟩ := List.getElem?_eq_some_iff.mp hj
    simpa [State.units] using hlt

/-- A wake that no unit waits for leaves every suspension. -/
theorem State.clear_suspOf {u : UnitId} {x : Susp} (h : s.waiters w = []) (hu : s.suspOf u = some x) :
    Susp.clear w x = x := by
  refine if_neg fun hx => ?_
  have hmem : u ∈ s.waiters w := List.mem_filter.mpr ⟨State.mem_units_of_suspOf hu, by simp [hu, hx]⟩
  rw [h] at hmem
  cases hmem

/-- A wake is lost where no unit is suspended so. -/
theorem State.wake_of_waiters_eq_nil (h : s.waiters w = []) : s.wake w = s := by
  have hmu : Susp.clear w s.mu.susp = s.mu.susp := State.clear_suspOf (u := .mu) h rfl
  have hsnd : Susp.clear w s.snd.susp = s.snd.susp := State.clear_suspOf (u := .is) h rfl
  have hsu : s.su.map (fun u => { u with susp := Susp.clear w u.susp }) = s.su := by
    refine (List.map_congr_left fun v hv => ?_).trans (List.map_id s.su)
    obtain ⟨k, hk⟩ := List.mem_iff_getElem?.mp hv
    rw [State.clear_suspOf (u := .su k) h (by simp [State.suspOf, hk])]
    rfl
  have hrcv : s.rcv.map (fun u => { u with susp := Susp.clear w u.susp }) = s.rcv := by
    refine (List.map_congr_left fun v hv => ?_).trans (List.map_id s.rcv)
    obtain ⟨j, hj⟩ := List.mem_iff_getElem?.mp hv
    rw [State.clear_suspOf (u := .ir j) h (by simp [State.suspOf, hj])]
    rfl
  unfold State.wake
  rw [hmu, hsnd, hsu, hrcv]

/-- Settles O31: a wake writes `SUSP` and nothing else. -/
theorem aWakeEndsItsWaitsAndNothingElse : Obligations.AWakeEndsItsWaitsAndNothingElse := fun s w =>
  ⟨s.wake_suspOf w, s.wake_keepsAllButSusp w, fun u => ⟨s.wake_current w u, s.wake_portOf w u⟩, ⟨_, _, _, _, rfl⟩,
    State.wake_of_waiters_eq_nil, fun _ h => h ▸ rfl⟩

end Sys2Proof.Machine
end

section
/-! What a step does to the suspensions of the units (40_execution_model.md R76, R79 to R84, R91): the unit that moves goes to
a new suspension, and another unit's ends only where the step signals what it waits for (`step_moved`). From this follow
how long a `waitfor` is, that only its condition ends a wait, and the invariant `Timely`. -/

namespace Sys2Proof.Machine

variable {s t b : State} {u : UnitId}

/-! ## What a unit shows: its suspension and its operation -/

/-- A unit's `SUSP` and the operation it is carrying out. -/
def State.view (s : State) (u : UnitId) : Option Susp × Option Instr := (s.suspOf u, s.current u)

/-- The units of the block. -/
def State.crew (s : State) : MasterUnit × List SlaveUnit × SenderUnit × List ReceiverUnit :=
  (s.mu, s.su, s.snd, s.rcv)

theorem State.view_eq_iff :
    t.view u = s.view u ↔ t.suspOf u = s.suspOf u ∧ t.current u = s.current u := Prod.mk_inj

theorem State.view_congr (h : t.crew = s.crew) (u : UnitId) : t.view u = s.view u := by
  simp only [State.crew, Prod.mk.injEq] at h
  obtain ⟨hmu, hsu, hsnd, hrcv⟩ := h
  cases u <;> simp [State.view, State.suspOf, State.current, hmu, hsu, hsnd, hrcv]

/-! A unit replaced shows the new one's, and the others what they showed. -/

theorem State.view_withMu_ne (v : MasterUnit) (h : u ≠ .mu) : (s.withMu v).view u = s.view u := by
  cases u with
  | mu => exact absurd rfl h
  | su | is | ir => rfl

theorem State.view_withSnd_ne (v : SenderUnit) (h : u ≠ .is) : (s.withSnd v).view u = s.view u := by
  cases u with
  | is => exact absurd rfl h
  | mu | su | ir => rfl

theorem State.view_withSu_ne {k : Nat} (v : SlaveUnit) (h : u ≠ .su k) : (s.withSu k v).view u = s.view u := by
  cases u with
  | su m => simp [State.view, State.suspOf, State.current, List.getElem?_set_ne (fun hk : k = m => h (hk ▸ rfl))]
  | mu | is | ir => rfl

theorem State.view_withRcv_ne {j : Nat} (v : ReceiverUnit) (h : u ≠ .ir j) : (s.withRcv j v).view u = s.view u := by
  cases u with
  | ir m => simp [State.view, State.suspOf, State.current, List.getElem?_set_ne (fun hj : j = m => h (hj ▸ rfl))]
  | mu | su | is => rfl

theorem State.view_withSu_self {k : Nat} {u : SlaveUnit} (v : SlaveUnit) (hk : s.su[k]? = some u) :
    (s.withSu k v).view (.su k) = (some v.susp, v.current) := by
  obtain ⟨hlt, -⟩ := List.getElem?_eq_some_iff.mp hk
  simp [State.view, State.suspOf, State.current, hlt]

theorem State.view_withRcv_self {j : Nat} {u : ReceiverUnit} (v : ReceiverUnit) (hj : s.rcv[j]? = some u) :
    (s.withRcv j v).view (.ir j) = (some v.susp, v.current) := by
  obtain ⟨hlt, -⟩ := List.getElem?_eq_some_iff.mp hj
  simp [State.view, State.suspOf, State.current, hlt]

/-- A command taken off a list changes only a port, which no unit shows. -/
theorem State.popCommand_view (s : State) (c u : UnitId) : (s.popCommand c).view u = s.view u := by
  unfold State.popCommand
  split
  case h_1 => cases u <;> rfl
  case h_2 k =>
    split
    case h_1 v hk =>
      by_cases hu : u = .su k
      · subst hu
        exact (State.view_withSu_self _ hk).trans (by simp only [State.view, State.suspOf, State.current, hk]; rfl)
      · exact State.view_withSu_ne _ hu
    case h_2 => rfl
  case h_3 => cases u <;> rfl
  case h_4 j =>
    split
    case h_1 v hj =>
      by_cases hu : u = .ir j
      · subst hu
        exact (State.view_withRcv_self _ hj).trans (by simp only [State.view, State.suspOf, State.current, hj]; rfl)
      · exact State.view_withRcv_ne _ hu
    case h_2 => rfl

/-- Time passing changes no more of a unit than the hidden bit of a receiver. -/
theorem State.advance_view (s : State) (n : Nat) (u : UnitId) : (s.advance n).view u = s.view u := by
  cases u with
  | mu | su | is => rfl
  | ir j =>
    simp only [State.view, State.suspOf, State.current, State.advance_rcv, List.getElem?_map]
    cases s.rcv[j]? with
    | none => rfl
    | some v =>
      obtain ⟨p, hp, -⟩ := ReceiverUnit.sample_eq s.cfg s.intr s.now n v
      simp only [Option.map_some, Option.bind_some, hp]
      rfl

theorem State.advance_suspOf (s : State) (n : Nat) (u : UnitId) : (s.advance n).suspOf u = s.suspOf u :=
  congrArg Prod.fst (s.advance_view n u)

theorem State.advance_current (s : State) (n : Nat) (u : UnitId) : (s.advance n).current u = s.current u :=
  congrArg Prod.snd (s.advance_view n u)

/-! ## A move and what it signals -/

/-- A unit that moves from `s` ends the move suspended on `w`: a `waitfor` is one of the delays from now, and a unit that is
idle then is not suspended. -/
def State.Halts (s : State) (w : Susp) (idle : Prop) : Prop :=
  (∀ x, w = .until x → ∃ n ∈ s.cfg.delays, x = s.now + n) ∧ (idle → w = .none)

theorem State.Halts.none {idle : Prop} : s.Halts .none idle := ⟨nofun, fun _ => rfl⟩

theorem State.Halts.delay {n : Nat} {idle : Prop} (hn : n ∈ s.cfg.delays) (h : ¬ idle) :
    s.Halts (.until (s.now + n)) idle :=
  ⟨fun _ hx => ⟨n, hn, by cases hx; rfl⟩, fun hi => absurd hi h⟩

/-- Any other wait. -/
theorem State.Halts.wait {w : Susp} {idle : Prop} (hw : ∀ x, w ≠ .until x) (h : ¬ idle) : s.Halts w idle :=
  ⟨fun x hx => absurd hx (hw x), fun hi => absurd hi h⟩

/-- What a move from `s` to `t` signals: the edge where it raises `intr`, `readyNotice` where `MU` goes from its TXN setup to
its wait for `ackNotice`, and `ackNotice` where a slave-side unit leaves its TXN release. -/
def State.Signals (s t : State) : Susp → Prop
  | .edge => s.intr = false ∧ t.intr = true
  | .notice .readyNotice =>
    (s.mu.phase = .mw .txnSetup ∧ t.mu.phase = .mw .txnWaitAck) ∨
    (s.mu.phase = .mr .txnSetup ∧ t.mu.phase = .mr .txnWaitAck)
  | .notice .ackNotice =>
    ∃ (k : Nat) (v w : SlaveUnit), s.su[k]? = some v ∧ v.phase = .word .txnAckRel ∧
      t.su[k]? = some w ∧ w.phase ≠ .word .txnAckRel
  | .none => False
  | .until _ => False
  | .level _ _ => False

/-- A move of unit `u` from `s` to `t`, as far as suspensions go. -/
def State.Moved (s t : State) (u : UnitId) : Prop :=
  t.now = s.now ∧ (s.current u = none ∨ s.enabled u = true) ∧
  (∃ w, t.suspOf u = some w ∧ s.Halts w (t.current u = none)) ∧
  ∀ v, v ≠ u → t.current v = s.current v ∧
    (t.suspOf v = s.suspOf v ∨ t.suspOf v = some .none ∧ ∃ w, s.suspOf v = some w ∧ s.Signals t w)

/-- The units of `b` are those of `s`, or those after the wake that a move to `t` signals. -/
def State.WakesTo (s t b : State) : Prop := b.crew = s.crew ∨ ∃ w, b.crew = (s.wake w).crew ∧ s.Signals t w

theorem State.WakesTo.view (h : s.WakesTo t b) (u : UnitId) :
    b.current u = s.current u ∧
      (b.suspOf u = s.suspOf u ∨ b.suspOf u = some .none ∧ ∃ w, s.suspOf u = some w ∧ s.Signals t w) := by
  rcases h with hb | ⟨w, hb, hw⟩
  · obtain ⟨hx, hc⟩ := State.view_eq_iff.mp (State.view_congr hb u)
    exact ⟨hc, .inl hx⟩
  · obtain ⟨hx, hc⟩ := State.view_eq_iff.mp (State.view_congr hb u)
    rw [State.wake_suspOf] at hx
    refine ⟨hc.trans (s.wake_current w u), ?_⟩
    split at hx
    case isTrue hu => exact .inr ⟨hx, w, hu, hw⟩
    case isFalse => exact .inl hx

/-- A move that ends with the units of `b`, its own replaced. -/
theorem State.Moved.of_view {w : Susp} {c : Option Instr} (hb : s.WakesTo t b) (hn : t.now = s.now)
    (hf : s.current u = none ∨ s.enabled u = true) (hu : t.view u = (some w, c)) (hw : s.Halts w (c = none))
    (ho : ∀ v, v ≠ u → t.view v = b.view v) : s.Moved t u := by
  obtain ⟨hx, hc⟩ := Prod.mk.inj hu
  refine ⟨hn, hf, ⟨w, hx, hc ▸ hw⟩, fun v hv => ?_⟩
  obtain ⟨hx, hc⟩ := State.view_eq_iff.mp (ho v hv)
  rw [hx, hc]
  exact hb.view v

/-! ## `MU` -/

/-- The move of `MU` ends with the units of `s`, `MU` itself being `v`. -/
def State.EndsMu (s t : State) : Prop :=
  ∃ v, t.crew = (s.withMu v).crew ∧ s.Halts v.susp (v.phase = .idle)

theorem State.EndsMu.moved (h : b.EndsMu t) (hb : s.WakesTo t b) (hcfg : b.cfg = s.cfg) (hnow : b.now = s.now)
    (hn : t.now = s.now) (hf : s.current .mu = none ∨ s.enabled .mu = true) : s.Moved t .mu := by
  obtain ⟨v, ht, hd, hi⟩ := h
  rw [hcfg, hnow] at hd
  exact .of_view hb hn hf (State.view_congr ht .mu) ⟨hd, fun hc => hi (v.current_eq_none.mp hc)⟩
    fun u hu => (State.view_congr ht u).trans (State.view_withMu_ne v hu)

theorem muWaitfor_ends {p : MasterPhase} {n : Nat} (hp : p ≠ .idle) (hn : n ∈ s.cfg.delays) :
    s.EndsMu (s.muWaitfor p n) := ⟨_, rfl, .delay hn hp⟩

theorem mwBegin_ends (s : State) : s.EndsMu (mwBegin s) := by
  cases hv : s.cfg.variant with
  | pin => rw [mwBegin_pin hv]; exact muWaitfor_ends nofun (by simp [Config.delays])
  | txn => rw [mwBegin_txn hv]; exact muWaitfor_ends nofun (by simp [Config.delays])

theorem mrBegin_ends (s : State) : s.EndsMu (mrBegin s) := by
  cases hv : s.cfg.variant with
  | pin => rw [mrBegin_pin hv]; exact muWaitfor_ends nofun (by simp [Config.delays])
  | txn => rw [mrBegin_txn hv]; exact muWaitfor_ends nofun (by simp [Config.delays])

theorem mwAwaitAck_ends (h : mwAwaitAck s = .next t) : s.EndsMu t := by
  rcases mwAwaitAck_next.mp h with ⟨-, rfl⟩ | ⟨-, rfl⟩
  · exact muWaitfor_ends nofun (by simp [Config.delays])
  · exact ⟨_, rfl, .wait nofun nofun⟩

theorem mrSample_ends {w : Word} {p : MrPoint} :
    s.EndsMu ((s.withMu { s.mu with q := w }).muWaitfor (.mr p) s.cfg.tRHold) :=
  muWaitfor_ends (s := s.withMu { s.mu with q := w }) nofun (by simp [Config.delays])

theorem mrAwaitAck_ends (h : mrAwaitAck s = .next t) : s.EndsMu t := by
  rcases mrAwaitAck_next.mp h with ⟨-, w, -, rfl⟩ | ⟨-, rfl⟩
  · exact mrSample_ends
  · exact ⟨_, rfl, .wait nofun nofun⟩

theorem completeMaster_ends {r : Result} (h : completeMaster r s = .next t) : s.EndsMu t := by
  obtain rfl := completeMaster_next.mp h
  exact ⟨_, rfl, .none⟩

theorem lmwContinue_ends {r : Link × Bool} (h : lmwContinue r s = .next t) : s.EndsMu t := by
  unfold lmwContinue at h
  split at h
  · cases h
    exact mwBegin_ends (s.withMu _)
  · exact completeMaster_ends (s := s.withMu { s.mu with link := r.1 }) h

theorem lmrContinue_ends {r : Link × Bool} (h : lmrContinue r s = .next t) : s.EndsMu t := by
  unfold lmrContinue at h
  split at h
  · cases h
    exact mrBegin_ends (s.withMu _)
  · exact completeMaster_ends (s := s.withMu { s.mu with link := r.1 }) h

section
variable {ret : State → Answer} (hret : ∀ s t, ret s = .next t → s.EndsMu t)
include hret

theorem mwRelease_ends (h : mwRelease ret s = .next t) : s.EndsMu t := by
  rcases mwRelease_next.mp h with ⟨-, hr⟩ | ⟨-, rfl⟩
  · exact hret (s.withMu { s.mu with phase := .mw .waitRel }) t hr
  · exact ⟨_, rfl, .wait nofun nofun⟩

theorem mrRelease_ends (h : mrRelease ret s = .next t) : s.EndsMu t := by
  rcases mrRelease_next.mp h with ⟨-, hr⟩ | ⟨-, rfl⟩
  · exact hret (s.withMu { s.mu with phase := .mr .waitRel }) t hr
  · exact ⟨_, rfl, .wait nofun nofun⟩

/-- A segment of MW ends so, at its setup under TXN after the wake of `readyNotice`. -/
theorem mwSegment_ends {p : MwPoint} (hp : s.mu.phase = .mw p) (h : mwSegment ret p s = .next t) :
    s.EndsMu t ∨ (s.notify .readyNotice).EndsMu t ∧ s.Signals t (.notice .readyNotice) := by
  rcases mwSegment_next h with
    ⟨-, rfl⟩ | (⟨-, ha⟩ | ⟨-, ha⟩) | (⟨-, hr⟩ | ⟨-, hr⟩) | ⟨rfl, rfl⟩ | ⟨-, rfl⟩ | ⟨-, hr⟩
  · exact .inl (mwBegin_ends s)
  · exact .inl (mwAwaitAck_ends (s := s.driveReady true) ha)
  · exact .inl (mwAwaitAck_ends ha)
  · exact .inl (mwRelease_ends hret (s := s.driveReady false) hr)
  · exact .inl (mwRelease_ends hret hr)
  · exact .inr ⟨⟨_, rfl, .wait nofun nofun⟩, .inl ⟨hp, rfl⟩⟩
  · exact .inl (muWaitfor_ends nofun (by simp [Config.delays]))
  · exact .inl (hret s t hr)

/-- A segment of MR ends so, at its setup under TXN after the wake of `readyNotice`. -/
theorem mrSegment_ends {p : MrPoint} (hp : s.mu.phase = .mr p) (h : mrSegment ret p s = .next t) :
    s.EndsMu t ∨ (s.notify .readyNotice).EndsMu t ∧ s.Signals t (.notice .readyNotice) := by
  rcases mrSegment_next h with
    ⟨-, rfl⟩ | (⟨-, ha⟩ | ⟨-, ha⟩) | (⟨-, hr⟩ | ⟨-, hr⟩) | ⟨rfl, rfl⟩ | ⟨-, hq⟩ | ⟨-, hr⟩
  · exact .inl (mrBegin_ends s)
  · exact .inl (mrAwaitAck_ends (s := s.driveReady true) ha)
  · exact .inl (mrAwaitAck_ends ha)
  · exact .inl (mrRelease_ends hret (s := s.driveReady false) hr)
  · exact .inl (mrRelease_ends hret hr)
  · exact .inr ⟨⟨_, rfl, .wait nofun nofun⟩, .inr ⟨hp, rfl⟩⟩
  · obtain ⟨w, -, rfl⟩ := mrSample_next.mp hq
    exact .inl mrSample_ends
  · exact .inl (hret s t hr)

end

/-- Every operation of `MU`: an issue to it where it is idle, or a segment of it where it is enabled. -/
theorem execMu_ends {i : Instr} (hi : i.acceptedBy = .master) (h : exec i s = .next t) :
    (s.current .mu = none ∨ s.enabled .mu = true) ∧
      (s.EndsMu t ∨ (s.notify .readyNotice).EndsMu t ∧ s.Signals t (.notice .readyNotice)) := by
  cases i with
  | mw a d =>
    obtain ⟨-, ⟨hp, -, rfl⟩ | ⟨p, hp, -, he, hm⟩⟩ := execMw_next.mp h
    · exact ⟨.inl (s.mu.current_eq_none.mpr hp), .inl ⟨_, rfl, .none⟩⟩
    · exact ⟨.inr he, mwSegment_ends (s := s.withMu { s.mu with susp := .none }) (fun _ _ => completeMaster_ends) hp hm⟩
  | mr a =>
    obtain ⟨-, ⟨hp, rfl⟩ | ⟨p, hp, -, he, hm⟩⟩ := execMr_next.mp h
    · exact ⟨.inl (s.mu.current_eq_none.mpr hp), .inl ⟨_, rfl, .none⟩⟩
    · exact ⟨.inr he, mrSegment_ends (s := s.withMu { s.mu with susp := .none }) (fun _ _ => completeMaster_ends) hp hm⟩
  | lmw a n =>
    obtain ⟨-, ⟨hp, -, rfl⟩ | ⟨-, -, he, hc⟩ | ⟨p, hp, -, he, hm⟩⟩ := execLmw_next.mp h
    · exact ⟨.inl (s.mu.current_eq_none.mpr hp), .inl ⟨_, rfl, .none⟩⟩
    · exact ⟨.inr he, .inl (lmwContinue_ends (s := s.withMu { s.mu with susp := .none }) hc)⟩
    · exact ⟨.inr he, mwSegment_ends (s := s.withMu { s.mu with susp := .none }) (fun _ _ => lmwContinue_ends) hp hm⟩
  | lmr a n =>
    obtain ⟨-, ⟨hp, -, rfl⟩ | ⟨-, -, he, hc⟩ | ⟨p, hp, -, he, hm⟩⟩ := execLmr_next.mp h
    · exact ⟨.inl (s.mu.current_eq_none.mpr hp), .inl ⟨_, rfl, .none⟩⟩
    · exact ⟨.inr he, .inl (lmrContinue_ends (s := s.withMu { s.mu with susp := .none }) hc)⟩
    · exact ⟨.inr he, mrSegment_ends (s := s.withMu { s.mu with susp := .none }) (fun _ _ => lmrContinue_ends) hp hm⟩
  | sw | sr | lsw | lsr | isend | irecv => cases hi

/-! ## `SU[k]` -/

/-- The move of `SU[k]` ends with the units of `s`, `SU[k]` itself being `v`. -/
def State.EndsSu (s : State) (k : Nat) (v : SlaveUnit) (t : State) : Prop :=
  t.crew = (s.withSu k v).crew ∧ s.Halts v.susp (v.phase = .idle)

section
variable {k : Nat} {u v : SlaveUnit}

theorem State.EndsSu.moved (h : b.EndsSu k v t) (hk : b.su[k]? = some u) (hb : s.WakesTo t b) (hcfg : b.cfg = s.cfg)
    (hnow : b.now = s.now) (hn : t.now = s.now) (hf : s.current (.su k) = none ∨ s.enabled (.su k) = true) :
    s.Moved t (.su k) := by
  obtain ⟨ht, hd, hi⟩ := h
  rw [hcfg, hnow] at hd
  exact .of_view hb hn hf ((State.view_congr ht _).trans (State.view_withSu_self v hk))
    ⟨hd, fun hc => hi (v.current_eq_none.mp hc)⟩
    fun u hu => (State.view_congr ht u).trans (State.view_withSu_ne v hu)

/-- The start of a `RUN` of `SU[k]` does not matter. -/
theorem State.EndsSu.of_runStart {x : SlaveUnit} (h : (s.withSu k x).EndsSu k v t) : s.EndsSu k v t := by
  obtain ⟨ht, hw⟩ := h
  exact ⟨by rw [ht, State.withSu_withSu], hw⟩

theorem State.EndsSu.of_runStart_notify {x : SlaveUnit} {e : Notice} (h : ((s.withSu k x).notify e).EndsSu k v t) :
    (s.notify e).EndsSu k v t := by
  obtain ⟨ht, hw⟩ := h
  exact ⟨by rw [ht]; simp [State.crew, List.map_set], hw⟩

/-- The move of `SU[k]` ends so, and not in its release under TXN. -/
def State.SuspendsSu (s : State) (k : Nat) (t : State) : Prop := ∃ v, s.EndsSu k v t ∧ v.phase ≠ .word .txnAckRel

theorem suWaitfor_ends {p : SlavePoint} {n : Nat} (hn : n ∈ s.cfg.delays) :
    s.EndsSu k { u with phase := .word p, susp := .until (s.now + n) } (s.suWaitfor k u p n) := ⟨rfl, .delay hn nofun⟩

theorem suWaitfor_suspends {p : SlavePoint} {n : Nat} (hn : n ∈ s.cfg.delays) (hp : p ≠ .txnAckRel) :
    s.SuspendsSu k (s.suWaitfor k u p n) := ⟨_, suWaitfor_ends hn, by simpa using hp⟩

theorem suSuspend_suspends {p : SlavePoint} {w : Susp} (hw : ∀ x, w ≠ .until x) (hp : p ≠ .txnAckRel) :
    s.SuspendsSu k (s.suSuspend k u p w) := ⟨_, ⟨rfl, .wait hw nofun⟩, by simpa using hp⟩

theorem servePin_suspends (h : servePin k u s = .next t) : s.SuspendsSu k t := by
  obtain ⟨-, -, ⟨-, w, -, rfl⟩ | ⟨-, rfl⟩⟩ := servePin_next.mp h
  · exact suWaitfor_suspends (s := s.markServed true) (by simp [Config.delays]) nofun
  · exact suWaitfor_suspends (s := (s.markServed true).driveData u.d) (by simp [Config.delays]) nofun

theorem serveTxn_suspends (h : serveTxn k u s = .next t) : s.SuspendsSu k t := by
  obtain ⟨-, -, ⟨-, w, -, rfl⟩ | ⟨-, rfl⟩⟩ := serveTxn_next.mp h
  · exact suWaitfor_suspends (s := s.markServed true) (by simp [Config.delays]) nofun
  · exact suWaitfor_suspends (s := (s.markServed true).drivePendingData u.d) (by simp [Config.delays]) nofun

theorem suAwaitReady_suspends (h : suAwaitReady k u s = .next t) : s.SuspendsSu k t := by
  rcases suAwaitReady_next.mp h with ⟨-, ht⟩ | ⟨-, rfl⟩
  · obtain ⟨x, -, ⟨-, hm⟩ | ⟨-, rfl⟩⟩ := testPin_next.mp ht
    · exact servePin_suspends hm
    · exact suWaitfor_suspends (by simp [Config.delays]) nofun
  · exact suSuspend_suspends nofun nofun

theorem suAwaitRelease_suspends (h : suAwaitRelease k u s = .next t) : s.SuspendsSu k t := by
  rcases suAwaitRelease_next.mp h with ⟨-, rfl⟩ | ⟨-, rfl⟩
  · exact suWaitfor_suspends (by simp [Config.delays]) nofun
  · exact suSuspend_suspends nofun nofun

theorem testTxn_suspends (h : testTxn k u s = .next t) : s.SuspendsSu k t := by
  obtain ⟨x, -, ⟨-, hm⟩ | ⟨-, rfl⟩⟩ := testTxn_next.mp h
  · exact serveTxn_suspends hm
  · exact suSuspend_suspends nofun nofun

theorem slaveBegin_suspends (h : slaveBegin k u s = .next t) : s.SuspendsSu k t := by
  rcases slaveBegin_next.mp h with ⟨-, ha⟩ | ⟨-, rfl⟩
  · exact suAwaitReady_suspends ha
  · exact suSuspend_suspends nofun nofun

theorem completeSlave_suspends {r : Result} (h : completeSlave k r u s = .next t) : s.SuspendsSu k t := by
  obtain rfl := completeSlave_next.mp h
  exact ⟨_, ⟨rfl, .none⟩, nofun⟩

theorem lswContinue_suspends {r : Link × Bool} (h : lswContinue k r u s = .next t) : s.SuspendsSu k t := by
  unfold lswContinue at h
  split at h
  · exact slaveBegin_suspends h
  · exact completeSlave_suspends h

theorem lsrContinue_suspends {r : Link × Bool} (h : lsrContinue k r u s = .next t) : s.SuspendsSu k t := by
  unfold lsrContinue at h
  split at h
  · exact slaveBegin_suspends h
  · exact completeSlave_suspends h

/-- How a move of `SU[k]`, which was `u`, ends: so, and where it leaves the release under TXN, after the wake of
`ackNotice`. -/
def State.EndsSlave (s : State) (k : Nat) (u : SlaveUnit) (t : State) : Prop :=
  (∃ v, s.EndsSu k v t) ∨ u.phase = .word .txnAckRel ∧ (s.notify .ackNotice).SuspendsSu k t

theorem State.SuspendsSu.ends (h : s.SuspendsSu k t) : s.EndsSlave k u t := by
  obtain ⟨v, hv, -⟩ := h
  exact .inl ⟨v, hv⟩

theorem slaveSegment_ends {ret : SlaveUnit → State → Answer} {p : SlavePoint}
    (hret : ∀ u s t, ret u s = .next t → s.SuspendsSu k t) (hp : u.phase = .word p)
    (h : slaveSegment k ret p u s = .next t) : s.EndsSlave k u t := by
  rcases slaveSegment_next h with
    ⟨-, hb⟩ | ⟨-, ha⟩ | (⟨-, hr⟩ | ⟨-, hr⟩) | ⟨-, hr⟩ | ⟨-, ht⟩ | ⟨-, rfl⟩ | ⟨rfl, hr⟩
  · exact (slaveBegin_suspends hb).ends
  · exact (suAwaitReady_suspends ha).ends
  · exact State.SuspendsSu.ends (s := s) (suAwaitRelease_suspends (s := s.driveAck true) hr)
  · exact (suAwaitRelease_suspends hr).ends
  · exact State.SuspendsSu.ends (s := s) (hret u (s.driveAck false) t hr)
  · exact (testTxn_suspends ht).ends
  · exact .inl ⟨_, suWaitfor_ends (by simp [Config.delays])⟩
  · exact .inr ⟨hp, hret u _ t hr⟩

theorem State.EndsSlave.of_runStart {x : SlaveUnit}
    (h : (s.withSu k x).EndsSlave k { u with susp := .none } t) : s.EndsSlave k u t := by
  rcases h with ⟨v, hv⟩ | ⟨hp, v, hv, hne⟩
  · exact .inl ⟨v, hv.of_runStart⟩
  · exact .inr ⟨hp, v, hv.of_runStart_notify, hne⟩

theorem State.EndsSlave.moved (h : s.EndsSlave k u t) (hk : s.su[k]? = some u) (hn : t.now = s.now)
    (hf : u.current = none ∨ s.enabled (.su k) = true) : s.Moved t (.su k) := by
  have hf' : s.current (.su k) = none ∨ s.enabled (.su k) = true := by simpa [State.current, hk] using hf
  rcases h with ⟨v, hv⟩ | ⟨hp, v, hv, hne⟩
  · exact hv.moved hk (.inl rfl) rfl rfl hn hf'
  · have hk' : (s.notify .ackNotice).su[k]? = some { u with susp := Susp.clear (.notice .ackNotice) u.susp } := by
      simp [hk]
    have ht : t.su[k]? = some v := by
      obtain ⟨hlt, -⟩ := List.getElem?_eq_some_iff.mp hk
      obtain ⟨hcrew, -⟩ := hv
      simp only [State.crew, Prod.mk.injEq] at hcrew
      obtain ⟨-, hsu, -⟩ := hcrew
      simp [hsu, hlt]
    exact hv.moved hk' (.inr ⟨_, rfl, k, u, v, hk, hp, ht, hne⟩) rfl rfl hn hf'

end

/-- Every operation of a slave-side unit: an issue to it where it is idle, or a segment of it where it is enabled. -/
theorem execSu_ends {i : Instr} (hi : i.acceptedBy = .slave) (h : exec i s = .next t) :
    ∃ k u, s.sel = .su k ∧ s.su[k]? = some u ∧ (u.current = none ∨ s.enabled (.su k) = true) ∧ s.EndsSlave k u t := by
  cases i with
  | sr a =>
    obtain ⟨k, u, hsel, hk, ⟨hp, rfl⟩ | ⟨p, hp, -, he, hm⟩⟩ := execSr_next.mp h
    · exact ⟨k, u, hsel, hk, .inl (u.current_eq_none.mpr hp), .inl ⟨_, rfl, .none⟩⟩
    · exact ⟨k, u, hsel, hk, .inr he, (slaveSegment_ends (fun _ _ _ => completeSlave_suspends) hp hm).of_runStart⟩
  | sw a d =>
    obtain ⟨k, u, hsel, hk, ⟨hp, -, rfl⟩ | ⟨p, hp, -, he, hm⟩⟩ := execSw_next.mp h
    · exact ⟨k, u, hsel, hk, .inl (u.current_eq_none.mpr hp), .inl ⟨_, rfl, .none⟩⟩
    · exact ⟨k, u, hsel, hk, .inr he, (slaveSegment_ends (fun _ _ _ => completeSlave_suspends) hp hm).of_runStart⟩
  | lsw a n =>
    obtain ⟨k, u, hsel, hk, ⟨hp, -, rfl⟩ | ⟨-, -, he, hc⟩ | ⟨p, hp, -, he, hm⟩⟩ := execLsw_next.mp h
    · exact ⟨k, u, hsel, hk, .inl (u.current_eq_none.mpr hp), .inl ⟨_, rfl, .none⟩⟩
    · exact ⟨k, u, hsel, hk, .inr he, (lswContinue_suspends hc).ends.of_runStart⟩
    · exact ⟨k, u, hsel, hk, .inr he, (slaveSegment_ends (fun _ _ _ => lswContinue_suspends) hp hm).of_runStart⟩
  | lsr a n =>
    obtain ⟨k, u, hsel, hk, ⟨hp, -, rfl⟩ | ⟨-, -, he, hc⟩ | ⟨p, hp, -, he, hm⟩⟩ := execLsr_next.mp h
    · exact ⟨k, u, hsel, hk, .inl (u.current_eq_none.mpr hp), .inl ⟨_, rfl, .none⟩⟩
    · exact ⟨k, u, hsel, hk, .inr he, (lsrContinue_suspends hc).ends.of_runStart⟩
    · exact ⟨k, u, hsel, hk, .inr he, (slaveSegment_ends (fun _ _ _ => lsrContinue_suspends) hp hm).of_runStart⟩
  | mw | mr | lmw | lmr | isend | irecv => cases hi

/-! ## `IS` and `IR[j]` -/

/-- `drive intr <- 1` wakes the receivers where it raises the line, else nobody. -/
theorem driveIntr_wakesTo (v : SenderUnit) (ht : t.intr = true) :
    ∃ b, s.WakesTo t b ∧
      (((s.withSnd { s.snd with susp := .none }).driveIntr true).withSnd v).crew = (b.withSnd v).crew := by
  cases hi : s.intr with
  | false =>
    refine ⟨s.wake .edge, .inr ⟨.edge, rfl, hi, ht⟩, ?_⟩
    simp [State.driveIntr, hi, State.crew]
  | true =>
    refine ⟨s, .inl rfl, ?_⟩
    simp [State.driveIntr, hi, State.crew]

theorem moved_withSnd {v : SenderUnit} (ht : t.crew = (b.withSnd v).crew) (hb : s.WakesTo t b)
    (hw : s.Halts v.susp (v.phase = .idle)) (hn : t.now = s.now) (hf : s.current .is = none ∨ s.enabled .is = true) :
    s.Moved t .is := by
  obtain ⟨hd, hi⟩ := hw
  exact .of_view hb hn hf (State.view_congr ht .is) ⟨hd, fun hc => hi (v.current_eq_none.mp hc)⟩
    fun u hu => (State.view_congr ht u).trans (State.view_withSnd_ne v hu)

theorem execIsend_moved (hn : t.now = s.now) (h : execIsend s = .next t) : s.Moved t .is := by
  obtain ⟨-, ⟨hp, rfl⟩ | ⟨-, he, hp⟩ | ⟨-, he, hp⟩⟩ := execIsend_next.mp h
  · exact moved_withSnd rfl (.inl rfl) .none hn (.inl (s.snd.current_eq_none.mpr hp))
  · cases hp
    obtain ⟨b, hb, hcrew⟩ := driveIntr_wakesTo (s := s) (t := _) _ (State.driveIntr_intr _ true)
    exact moved_withSnd hcrew hb (by simpa using State.Halts.delay (by simp [Config.delays]) nofun) hn (.inr he)
  · cases hp
    exact moved_withSnd (b := s) (by rw [State.driveIntr_false]; rfl) (.inl rfl) .none hn (.inr he)

theorem moved_withRcv {j : Nat} {u v : ReceiverUnit} (hj : s.rcv[j]? = some u) (ht : t.crew = (s.withRcv j v).crew)
    (hw : s.Halts v.susp (v.phase = .idle)) (hn : t.now = s.now) (hf : u.current = none ∨ s.enabled (.ir j) = true) :
    s.Moved t (.ir j) := by
  obtain ⟨hd, hi⟩ := hw
  exact .of_view (.inl rfl) hn (by simpa [State.current, hj] using hf)
    ((State.view_congr ht _).trans (State.view_withRcv_self v hj)) ⟨hd, fun hc => hi (v.current_eq_none.mp hc)⟩
    fun u hu => (State.view_congr ht u).trans (State.view_withRcv_ne v hu)

theorem State.withRcv_withRcv (s : State) (j : Nat) (u v : ReceiverUnit) :
    (s.withRcv j u).withRcv j v = s.withRcv j v := by
  simp [State.withRcv]

theorem execIrecv_moved (hn : t.now = s.now) (h : execIrecv s = .next t) : ∃ j, s.sel = .ir j ∧ s.Moved t (.ir j) := by
  obtain ⟨j, u, hsel, hj, ⟨hp, rfl⟩ | ⟨-, he, rfl⟩ | ⟨-, he, rfl⟩⟩ := execIrecv_next.mp h
  · exact ⟨j, hsel, moved_withRcv hj rfl .none hn (.inl (u.current_eq_none.mpr hp))⟩
  · exact ⟨j, hsel, moved_withRcv hj (congrArg _ (s.withRcv_withRcv j _ _)) (.wait nofun nofun) hn (.inr he)⟩
  · exact ⟨j, hsel, moved_withRcv hj (congrArg _ (s.withRcv_withRcv j _ _)) .none hn (.inr he)⟩

/-! ## Every operation, every step -/

/-- An operation that answers a next state is one of the selected unit's kind. -/
theorem exec_kind {i : Instr} (h : exec i s = .next t) : s.sel.kind = i.acceptedBy := by
  by_contra hk
  cases (exec_wrongUnit hk).symm.trans h

theorem exec_moved {i : Instr} (h : exec i s = .next t) : s.Moved t s.sel := by
  have hk := exec_kind h
  obtain ⟨-, hn, -⟩ := State.shape_eq_iff.mp (exec_shape h)
  cases hi : i.acceptedBy with
  | master =>
    obtain ⟨hf, hm⟩ := execMu_ends hi h
    rw [UnitId.kind_eq_master.mp (hk.trans hi)]
    rcases hm with hm | ⟨hm, hs⟩
    · exact hm.moved (.inl rfl) rfl rfl hn hf
    · exact hm.moved (.inr ⟨_, rfl, hs⟩) rfl rfl hn hf
  | slave =>
    obtain ⟨k, u, hsel, hu, hf, hm⟩ := execSu_ends hi h
    rw [hsel]
    exact hm.moved hu hn hf
  | sender =>
    rw [UnitId.kind_eq_sender.mp (hk.trans hi)]
    cases i with
    | isend => exact execIsend_moved hn h
    | mw | mr | sw | sr | lmw | lmr | lsw | lsr | irecv => cases hi
  | receiver =>
    cases i with
    | irecv =>
      obtain ⟨j, hsel, hm⟩ := execIrecv_moved hn h
      rw [hsel]
      exact hm
    | mw | mr | sw | sr | lmw | lmr | lsw | lsr | isend => cases hi

/-! A command presented on a port leaves everything that `Moved` speaks of. -/

theorem State.present_view (s : State) (c : UnitId) (d : Command) (u : UnitId) : (s.present c d).view u = s.view u :=
  s.popCommand_view c u

theorem State.Signals.of_present {c : UnitId} {d : Command} {w : Susp} (h : (s.present c d).Signals t w) :
    s.Signals t w := by
  cases w with
  | edge => exact ⟨(State.popCommand_intr (s := s) c).symm.trans h.1, h.2⟩
  | notice e =>
    cases e with
    | readyNotice =>
      obtain ⟨p, hp⟩ := State.popCommand_mu (s := s) c
      have hph : (s.present c d).mu.phase = s.mu.phase := (congrArg MasterUnit.phase hp :)
      simpa only [State.Signals, hph] using h
    | ackNotice =>
      obtain ⟨k, v, w, hk, hv, hw⟩ := h
      rcases State.popCommand_su (s := s) c with hs | ⟨m, x, p, hx, hs⟩
      · exact ⟨k, v, w, hs ▸ hk, hv, hw⟩
      · change (s.popCommand c).su[k]? = some v at hk
        rw [hs] at hk
        by_cases hmk : m = k
        · subst hmk
          obtain ⟨hlt, -⟩ := List.getElem?_eq_some_iff.mp hx
          obtain rfl : { x with port := p } = v := by simpa [hlt] using hk
          exact ⟨m, x, w, hx, hv, hw⟩
        · exact ⟨k, v, w, (List.getElem?_set_ne hmk).symm.trans hk, hv, hw⟩
  | _ => exact h

/-- A unit that is issued a command was idle. -/
theorem State.Moved.of_present {d : Command} (h : (s.present u d).Moved t u) (hc : s.current u = none) : s.Moved t u := by
  obtain ⟨hn, -, ⟨w, hw, hd, hi⟩, ho⟩ := h
  have hnow : (s.present u d).now = s.now := State.popCommand_now u
  have hcfg : (s.present u d).cfg = s.cfg := State.popCommand_cfg u
  rw [hcfg, hnow] at hd
  refine ⟨hn.trans hnow, .inl hc, ⟨w, hw, hd, hi⟩, fun v hv => ?_⟩
  obtain ⟨hx, hcv⟩ := State.view_eq_iff.mp (s.present_view u d v)
  obtain ⟨ho, hs⟩ := ho v hv
  rw [hx] at hs
  exact ⟨ho.trans hcv, hs.imp_right fun ⟨hnone, w, hw, hsig⟩ => ⟨hnone, w, hw, hsig.of_present⟩⟩

/-- A step is the move of one unit, or the advance of time where no unit can move. -/
theorem step_moved (h : step s = .next t) :
    (∃ u, s.Moved t u) ∨ s.moves = [] ∧ ∃ n, s.nextTime = some n ∧ t = s.advance n := by
  obtain ⟨-, ⟨u, r, hc, hm⟩ | ⟨hc, n, hn, rfl⟩⟩ := step_next.mp h
  · obtain ⟨-, ag, tk, rfl⟩ := State.choose_some hc
    refine .inl ⟨u, ?_⟩
    rcases move_next.mp hm with ⟨i, -, he⟩ | ⟨hnone, c, i, -, -, he⟩
    · exact exec_moved he
    · exact State.Moved.of_present (s := { s with agenda := ag, tick := tk }) (exec_moved he) hnone
  · exact .inr ⟨State.choose_none.mp hc, n, hn, rfl⟩

/-! ## Waits begin and end -/

theorem State.enabled_iff {w : Susp} (h : s.suspOf u = some w) :
    s.enabled u = true ↔ (s.current u).isSome = true ∧ w.met s = true := by
  simp [State.enabled, h]

/-- A `waitfor` begins as one of the delays from now. -/
theorem step_begins_waitfor {x : Nat} (h : step s = .next t) (hx : t.suspOf u = some (.until x)) :
    s.suspOf u = some (.until x) ∨ ∃ n ∈ s.cfg.delays, x = s.now + n := by
  rcases step_moved h with ⟨v, -, -, ⟨w, hw, hd, -⟩, ho⟩ | ⟨-, n, -, rfl⟩
  · by_cases hv : u = v
    · subst hv
      exact .inr (hd x (Option.some.inj (hw.symm.trans hx)))
    · obtain ⟨-, hs | ⟨hs, -⟩⟩ := ho u hv
      · exact .inl (hs.symm.trans hx)
      · cases hs.symm.trans hx
  · exact .inl ((s.advance_suspOf n u).symm.trans hx)

/-- A wait of an operation in progress ends only where it lets the unit run, or where the step signals what it is for. -/
theorem step_ends_wait {w : Susp} (h : step s = .next t) (hc : (s.current u).isSome = true)
    (hw : s.suspOf u = some w) : t.suspOf u = some w ∨ w.met s = true ∨ s.Signals t w := by
  rcases step_moved h with ⟨v, -, hf, -, ho⟩ | ⟨-, n, -, rfl⟩
  · by_cases hv : u = v
    · subst hv
      rcases hf with hf | hf
      · rw [hf] at hc; cases hc
      · obtain ⟨-, hmet⟩ := (State.enabled_iff hw).mp hf
        exact .inr (.inl hmet)
    · obtain ⟨-, hs | ⟨-, y, hy, hsig⟩⟩ := ho u hv
      · exact .inl (hs.trans hw)
      · obtain rfl := Option.some.inj (hy.symm.trans hw)
        exact .inr (.inr hsig)
  · exact .inl ((s.advance_suspOf n u).trans hw)

/-- Settles O16: each kind of wait, by what lets its unit run and what signals it. -/
theorem onlyTheConditionEndsAWait : Obligations.OnlyTheConditionEndsAWait := by
  refine fun s t u h hc => ⟨fun g v hw => ?_, fun hw => ?_, fun hw => ?_, fun hw => ?_⟩
  · exact (step_ends_wait h hc hw).imp_right fun he => he.elim (fun hm => by simpa [Susp.met] using hm) False.elim
  · exact (step_ends_wait h hc hw).imp_right fun he => he.elim nofun id
  · exact (step_ends_wait h hc hw).imp_right fun he => he.elim nofun id
  · exact (step_ends_wait h hc hw).imp_right fun he => he.elim nofun id

/-! ## No `waitfor` is overslept -/

/-- `Timely`, said of all units at once. -/
theorem State.timely_iff :
    s.Timely ↔ ∀ u w, s.suspOf u = some w → w.notPast s.now = true ∧ (s.current u = none → w = .none) := by
  constructor
  · rintro ⟨hmu, hsu, hsnd, hrcv⟩ u w hw
    cases u with
    | mu =>
      obtain rfl := Option.some.inj hw
      exact ⟨hmu.1, fun hc => hmu.2 (s.mu.current_eq_none.mp hc)⟩
    | is =>
      obtain rfl := Option.some.inj hw
      exact ⟨hsnd.1, fun hc => hsnd.2 (s.snd.current_eq_none.mp hc)⟩
    | su k =>
      obtain ⟨v, hk, rfl⟩ := Option.map_eq_some_iff.mp hw
      obtain ⟨hp, hi⟩ := hsu v (List.mem_of_getElem? hk)
      exact ⟨hp, fun hc => hi (v.current_eq_none.mp (by simpa [State.current, hk] using hc))⟩
    | ir j =>
      obtain ⟨v, hj, rfl⟩ := Option.map_eq_some_iff.mp hw
      obtain ⟨hp, hi⟩ := hrcv v (List.mem_of_getElem? hj)
      exact ⟨hp, fun hc => hi (v.current_eq_none.mp (by simpa [State.current, hj] using hc))⟩
  · intro h
    obtain ⟨hmu, hmui⟩ := h .mu _ rfl
    obtain ⟨hsnd, hsndi⟩ := h .is _ rfl
    refine ⟨⟨hmu, fun hp => hmui (s.mu.current_eq_none.mpr hp)⟩, fun v hv => ?_,
      ⟨hsnd, fun hp => hsndi (s.snd.current_eq_none.mpr hp)⟩, fun v hv => ?_⟩
    · obtain ⟨k, hk⟩ := List.mem_iff_getElem?.mp hv
      obtain ⟨hp, hi⟩ := h (.su k) v.susp (by simp [State.suspOf, hk])
      exact ⟨hp, fun he => hi (by simpa [State.current, hk] using v.current_eq_none.mpr he)⟩
    · obtain ⟨j, hj⟩ := List.mem_iff_getElem?.mp hv
      obtain ⟨hp, hi⟩ := h (.ir j) v.susp (by simp [State.suspOf, hj])
      exact ⟨hp, fun he => hi (by simpa [State.current, hj] using v.current_eq_none.mpr he)⟩

theorem Susp.notPast_iff {w : Susp} {n : Nat} : w.notPast n = true ↔ ∀ x, w = .until x → n ≤ x := by
  cases w <;> simp [Susp.notPast]

theorem State.mem_eventTimes {x : Nat} (h : s.suspOf u = some (.until x)) : x ∈ s.eventTimes :=
  List.mem_flatMap.mpr ⟨u, State.mem_units_of_suspOf h, by simp [h]⟩

/-- Urgency (40_execution_model.md R85): where no unit can move, no `waitfor` ends before the time `ADVANCE` goes to. -/
theorem State.Timely.nextTime_le {n x : Nat} (h : s.Timely) (hm : s.moves = []) (hn : s.nextTime = some n)
    (hx : s.suspOf u = some (.until x)) : n ≤ x := by
  obtain ⟨-, hlt, hle⟩ := leastAbove_some hn
  obtain ⟨hp, hi⟩ := State.timely_iff.mp h u _ hx
  have hnow : s.now ≤ x := Susp.notPast_iff.mp hp x rfl
  rcases Nat.lt_or_eq_of_le hnow with hnow | rfl
  · exact hle x (State.mem_eventTimes hx) hnow
  · have hc : (s.current u).isSome = true := by
      rw [Option.isSome_iff_ne_none]
      exact fun hc => nomatch hi hc
    have he : s.enabled u = true := (State.enabled_iff hx).mpr ⟨hc, by simp [Susp.met]⟩
    obtain ⟨hne, -⟩ := State.moves_eq_nil_iff.mp hm u (State.mem_units_of_suspOf hx)
    rw [he] at hne
    cases hne

theorem State.Timely.moved (h : s.Timely) (hm : s.Moved t u) : t.Timely := by
  obtain ⟨hn, -, ⟨w, hw, hd, hi⟩, ho⟩ := hm
  refine State.timely_iff.mpr fun v y hy => ?_
  rw [hn]
  by_cases hv : v = u
  · subst hv
    obtain rfl := Option.some.inj (hw.symm.trans hy)
    refine ⟨Susp.notPast_iff.mpr fun x hx => ?_, hi⟩
    obtain ⟨m, -, rfl⟩ := hd x hx
    exact Nat.le_add_right ..
  · obtain ⟨hc, hs | ⟨hs, -⟩⟩ := ho v hv
    · rw [hc]
      exact State.timely_iff.mp h v y (hs.symm.trans hy)
    · obtain rfl := Option.some.inj (hs.symm.trans hy)
      exact ⟨rfl, fun _ => rfl⟩

theorem State.Timely.advance {n : Nat} (h : s.Timely) (hm : s.moves = []) (hn : s.nextTime = some n) :
    (s.advance n).Timely := by
  refine State.timely_iff.mpr fun v y hy => ?_
  rw [State.advance_suspOf] at hy
  rw [State.advance_current]
  obtain ⟨-, hi⟩ := State.timely_iff.mp h v y hy
  exact ⟨Susp.notPast_iff.mpr fun x hx => h.nextTime_le hm hn (hx ▸ hy), hi⟩

/-- Settles O53: a move suspends its unit until now or later, and time advances no further than the least end of a
`waitfor`. -/
theorem everyStepKeepsTheTimers : Obligations.EveryStepKeepsTheTimers := by
  intro s t h hs
  rcases step_moved hs with ⟨u, hm⟩ | ⟨hm, n, hn, rfl⟩
  · exact h.moved hm
  · exact h.advance hm hn

/-- Settles O15: how a `waitfor` begins and ends, and `Timely` of the next state. -/
theorem waitforIsExact : Obligations.WaitforIsExact := by
  refine ⟨fun s t u x h hx => step_begins_waitfor h hx, fun s u x hc hx => ?_, fun s t u x h hc hx => ?_,
    fun s t u x hT h hx => ?_, by decide⟩
  · rw [State.enabled_iff hx, Susp.met, beq_iff_eq, and_iff_right hc, eq_comm]
  · exact (step_ends_wait h hc hx).imp_right fun he => he.elim (fun hm => (beq_iff_eq.mp hm).symm) False.elim
  · obtain ⟨hp, -⟩ := State.timely_iff.mp (everyStepKeepsTheTimers s t hT h) u _ hx
    exact Susp.notPast_iff.mp hp x rfl

end Sys2Proof.Machine
end

section
/-! A call of a word-level operation inside a link-level one (30_encoding.md R68; 40_execution_model.md R86; 43_media_access.md
R121): up to where the word-level operation completes, its segments answer the same whichever operation called it, but for
`LOP`. -/

namespace Sys2Proof.Machine

variable {s t : State}

/-! ## `MU` -/

/-- `MU.LOP` set, in the state. -/
def State.withMuLop (x : MasterLop) (s : State) : State := s.withMu { s.mu with lop := x }

/-- The answer of a call is that of the word-level operation alone, but for `LOP`: a next state in which the operation goes
on, or a fault. -/
def CallAgrees (x : MasterLop) (alone call : Answer) : Prop :=
  (∀ t, alone = .next t → t.mu.phase ≠ .idle → call = .next (t.withMuLop x)) ∧
  ∀ f, alone = .fault f ↔ call = .fault f

namespace CallAgrees

variable {x : MasterLop}

theorem next (x : MasterLop) (t : State) : CallAgrees x (.next t) (.next (t.withMuLop x)) :=
  ⟨fun _ h _ => by cases h; rfl, fun _ => ⟨nofun, nofun⟩⟩

theorem fault (f : Fault) : CallAgrees x (.fault f) (.fault f) :=
  ⟨fun _ h => (by cases h), fun _ => Iff.rfl⟩

/-- The operation that completes has left its phase, and the one that called it goes on. -/
theorem ofReturn {r : Result} {s t : State} : CallAgrees x (completeMaster r s) (.next t) :=
  ⟨fun _ h hp => by cases h; exact absurd rfl hp, fun _ => ⟨nofun, nofun⟩⟩

theorem readCell {α : Type} {c : CellName} {v : Option α} {f g : α → Answer} (h : ∀ w, CallAgrees x (f w) (g w)) :
    CallAgrees x (readCell c v f) (readCell c v g) := by
  cases v with
  | none => exact fault _
  | some w => exact h w

theorem muWaitUntil {p : MasterPhase} {g : Signal} {v : Bool} {f h : State → Answer}
    (hr : ∀ r, CallAgrees x (f r) (h (r.withMuLop x))) (s : State) :
    CallAgrees x (muWaitUntil p g v f s) (muWaitUntil p g v h (s.withMuLop x)) := by
  have hl : (s.withMuLop x).level g = s.level g := by cases g <;> rfl
  unfold Machine.muWaitUntil
  rw [hl]
  split
  · exact hr _
  · exact next x _

theorem mwAwaitAck (s : State) : CallAgrees x (mwAwaitAck s) (mwAwaitAck (s.withMuLop x)) :=
  muWaitUntil (fun r => next x (r.muWaitfor (.mw .hold) r.cfg.tWHold)) s

theorem mwBegin (s : State) : CallAgrees x (.next (mwBegin s)) (.next (mwBegin (s.withMuLop x))) := by
  cases hv : s.cfg.variant with
  | pin => rw [mwBegin_pin hv, mwBegin_pin (s := s.withMuLop x) hv]; exact next x _
  | txn => rw [mwBegin_txn hv, mwBegin_txn (s := s.withMuLop x) hv]; exact next x _

theorem mrBegin (s : State) : CallAgrees x (.next (mrBegin s)) (.next (mrBegin (s.withMuLop x))) := by
  cases hv : s.cfg.variant with
  | pin => rw [mrBegin_pin hv, mrBegin_pin (s := s.withMuLop x) hv]; exact next x _
  | txn => rw [mrBegin_txn hv, mrBegin_txn (s := s.withMuLop x) hv]; exact next x _

theorem mrSample {c : CellName} {cell : Option Word} {p : MrPoint} (s : State) :
    CallAgrees x (mrSample c cell p s) (mrSample c cell p (s.withMuLop x)) :=
  readCell fun _ => next x _

section
variable {f g : State → Answer} (hr : ∀ r, CallAgrees x (f r) (g (r.withMuLop x)))
include hr

theorem mwSegment (p : MwPoint) (s : State) : CallAgrees x (mwSegment f p s) (mwSegment g p (s.withMuLop x)) := by
  cases p with
  | start => exact mwBegin s
  | setup => exact mwAwaitAck (s.driveReady true)
  | waitAck => exact mwAwaitAck s
  | hold => exact muWaitUntil hr (s.driveReady false)
  | waitRel => exact muWaitUntil hr s
  | txnSetup | txnWaitAck => exact next x _
  | txnHold => exact hr s

theorem mrSegment (p : MrPoint) (s : State) : CallAgrees x (mrSegment f p s) (mrSegment g p (s.withMuLop x)) := by
  cases p with
  | start => exact mrBegin s
  | setup => exact muWaitUntil mrSample (s.driveReady true)
  | waitAck => exact muWaitUntil mrSample s
  | hold => exact muWaitUntil hr (s.driveReady false)
  | waitRel => exact muWaitUntil hr s
  | txnSetup => exact next x _
  | txnWaitAck => exact mrSample s
  | txnHold => exact hr s

end

theorem lmwReturn {r : Result} (s : State) : CallAgrees x (completeMaster r s) (lmwReturn (s.withMuLop x)) := by
  unfold Machine.lmwReturn lmwContinue
  split
  · exact ofReturn
  · exact ofReturn

theorem lmrReturn {r : Result} (s : State) : CallAgrees x (completeMaster r s) (lmrReturn (s.withMuLop x)) := by
  unfold Machine.lmrReturn lmrContinue
  split
  · exact ofReturn
  · exact ofReturn

end CallAgrees

/-! A meaning put to a unit that runs it is the segment of the place where the unit stands. -/

theorem execMw_run {a : Addr} {d : Word} {p : MwPoint} (h : s.Runs .mu (.mw a d)) (hp : s.mu.phase = .mw p) :
    execMw a d s = mwSegment (completeMaster .nothing) p (s.withMu { s.mu with susp := .none }) := by
  obtain ⟨hsel, hc, he⟩ := h
  replace hc : s.mu.current = some (.mw a d) := hc
  simp [execMw, hsel, hp, hc, runMaster, he]

theorem execMr_run {a : Addr} {p : MrPoint} (h : s.Runs .mu (.mr a)) (hp : s.mu.phase = .mr p) :
    execMr a s =
      mrSegment (fun t => completeMaster (.word t.mu.q) t) p (s.withMu { s.mu with susp := .none }) := by
  obtain ⟨hsel, hc, he⟩ := h
  replace hc : s.mu.current = some (.mr a) := hc
  simp [execMr, hsel, hp, hc, runMaster, he]

theorem execLmw_run {a : Addr} {n : Len} {p : MwPoint} (h : s.Runs .mu (.lmw a n)) (hp : s.mu.phase = .mw p) :
    execLmw a n s = mwSegment lmwReturn p (s.withMu { s.mu with susp := .none }) := by
  obtain ⟨hsel, hc, he⟩ := h
  replace hc : s.mu.current = some (.lmw a n) := hc
  simp [execLmw, hsel, hp, hc, runMaster, he]

theorem execLmr_run {a : Addr} {n : Len} {p : MrPoint} (h : s.Runs .mu (.lmr a n)) (hp : s.mu.phase = .mr p) :
    execLmr a n s = mrSegment lmrReturn p (s.withMu { s.mu with susp := .none }) := by
  obtain ⟨hsel, hc, he⟩ := h
  replace hc : s.mu.current = some (.lmr a n) := hc
  simp [execLmr, hsel, hp, hc, runMaster, he]

theorem Susp.met_congr (w : Susp) (hn : t.now = s.now) (hb : t.bus = s.bus) : w.met t = w.met s := by
  cases w with
  | level g => cases g <;> simp only [Susp.met, State.level, hb]
  | _ => simp only [Susp.met, hn]

/-- `MU` with another `LOP` runs the operation that its registers then say. -/
theorem State.Runs.withMuLop {i j : Instr} {x : MasterLop} (h : s.Runs .mu i)
    (hj : (s.withMuLop x).current .mu = some j) : (s.withMuLop x).Runs .mu j := by
  obtain ⟨hsel, -, he⟩ := h
  obtain ⟨-, hm⟩ := (State.enabled_iff (s := s) (u := .mu) rfl).mp he
  exact ⟨hsel, hj, (State.enabled_iff (s := s.withMuLop x) (u := .mu) rfl).mpr
    ⟨Option.isSome_of_eq_some hj, (Susp.met_congr _ rfl rfl).trans hm⟩⟩

/-- A called MW. -/
theorem execLmw_callAgrees {a : Addr} {n : Len} {p : MwPoint} (h : s.Runs .mu (.lmw a n)) (hp : s.mu.phase = .mw p) :
    CallAgrees .lmw (execMw s.mu.a s.mu.d (s.withMuLop .none)) (execLmw a n s) := by
  have hop : s.mu.lop = .lmw := by
    obtain ⟨-, hc, -⟩ := h
    obtain ⟨hop, -⟩ := MasterUnit.current_lmw hc
    simpa [hp] using hop
  have hr : (s.withMuLop .none).Runs .mu (.mw s.mu.a s.mu.d) :=
    h.withMuLop (by simp [State.current, State.withMuLop, MasterUnit.current, hp])
  have hs : s.withMu { s.mu with susp := .none } =
      ((s.withMuLop .none).withMu { (s.withMuLop .none).mu with susp := .none }).withMuLop .lmw := by
    rw [← hop]; rfl
  rw [execMw_run hr hp, execLmw_run h hp, hs]
  exact .mwSegment .lmwReturn p _

/-- A called MR. -/
theorem execLmr_callAgrees {a : Addr} {n : Len} {p : MrPoint} (h : s.Runs .mu (.lmr a n)) (hp : s.mu.phase = .mr p) :
    CallAgrees .lmr (execMr s.mu.a (s.withMuLop .none)) (execLmr a n s) := by
  have hop : s.mu.lop = .lmr := by
    obtain ⟨-, hc, -⟩ := h
    obtain ⟨hop, -⟩ := MasterUnit.current_lmr hc
    simpa [hp] using hop
  have hr : (s.withMuLop .none).Runs .mu (.mr s.mu.a) :=
    h.withMuLop (by simp [State.current, State.withMuLop, MasterUnit.current, hp])
  have hs : s.withMu { s.mu with susp := .none } =
      ((s.withMuLop .none).withMu { (s.withMuLop .none).mu with susp := .none }).withMuLop .lmr := by
    rw [← hop]; rfl
  rw [execMr_run hr hp, execLmr_run h hp, hs]
  exact .mrSegment (fun r => .lmrReturn r) p _

/-! ## `SU[k]` -/

section
variable {k : Nat} {x : SlaveLop} {u : SlaveUnit}

theorem modify_set_same {α : Type} (l : List α) (k : Nat) (f : α → α) (a : α) :
    (l.modify k f).set k a = l.set k a := by
  refine List.ext_getElem? fun m => ?_
  by_cases hm : k = m
  · subst hm; simp [List.getElem?_set]
  · simp [List.getElem?_set_ne hm, hm]

theorem set_modify_same {α : Type} (l : List α) (k : Nat) (f : α → α) (a : α) :
    (l.set k a).modify k f = l.set k (f a) := by
  refine List.ext_getElem? fun m => ?_
  by_cases hm : k = m
  · subst hm; simp [List.getElem?_set, apply_ite (Option.map f)]
  · simp [List.getElem?_set_ne hm, hm]

/-- `LOP` of a unit that is replaced does not matter. -/
theorem State.restoreLop_withSu (s : State) (k : Nat) (x : SlaveLop) (v : SlaveUnit) :
    (s.restoreLop k x).withSu k v = s.withSu k v := by
  simp only [State.withSu, State.restoreLop, modify_set_same]

theorem State.withSu_restoreLop (s : State) (k : Nat) (x : SlaveLop) (v : SlaveUnit) :
    (s.withSu k v).restoreLop k x = s.withSu k { v with lop := x } := by
  simp only [State.withSu, State.restoreLop, set_modify_same]

/-- The answer of a call is that of the word-level operation alone, but for `LOP`. -/
def SlaveCallAgrees (k : Nat) (x : SlaveLop) (alone call : Answer) : Prop := call = mapNext (State.restoreLop k x) alone

namespace SlaveCallAgrees

theorem suSuspend (s : State) (k : Nat) (x : SlaveLop) (u : SlaveUnit) (p : SlavePoint) (w : Susp) :
    SlaveCallAgrees k x (.next (s.suSuspend k u p w))
      (.next ((s.restoreLop k x).suSuspend k { u with lop := x } p w)) :=
  congrArg Host.Outcome.next
    ((s.restoreLop_withSu k x _).trans (s.withSu_restoreLop k x { u with phase := .word p, susp := w }).symm)

theorem suWaitfor (s : State) (k : Nat) (x : SlaveLop) (u : SlaveUnit) (p : SlavePoint) (n : Nat) :
    SlaveCallAgrees k x (.next (s.suWaitfor k u p n))
      (.next ((s.restoreLop k x).suWaitfor k { u with lop := x } p n)) :=
  suSuspend s k x u p (.until (s.now + n))

theorem readCell {α : Type} {c : CellName} {v : Option α} {f g : α → Answer}
    (h : ∀ w, SlaveCallAgrees k x (f w) (g w)) : SlaveCallAgrees k x (readCell c v f) (readCell c v g) := by
  cases v with
  | none => rfl
  | some w => exact h w

theorem ite {c : Prop} [Decidable c] {A B A' B' : Answer} (hA : SlaveCallAgrees k x A A')
    (hB : SlaveCallAgrees k x B B') : SlaveCallAgrees k x (if c then A else B) (if c then A' else B') := by
  split
  · exact hA
  · exact hB

theorem takeMatch {dir : SlaveDir} {f g : State → State}
    (h : ∀ r, SlaveCallAgrees k x (.next (f r)) (.next (g (r.restoreLop k x)))) (s : State) :
    SlaveCallAgrees k x (takeMatch dir f s) (takeMatch dir g (s.restoreLop k x)) :=
  ite rfl (ite (h _) rfl)

theorem servePin (s : State) (u : SlaveUnit) :
    SlaveCallAgrees k x (servePin k u s) (servePin k { u with lop := x } (s.restoreLop k x)) := by
  obtain ⟨ph, w, a, d, q, dir, lop, link, port⟩ := u
  cases dir with
  | capture => exact readCell fun _ => takeMatch (fun r => suWaitfor r k x _ .service r.cfg.tSlave) s
  | drive =>
    unfold Machine.servePin
    exact takeMatch (fun r => suWaitfor (r.driveData d) k x _ .service r.cfg.tSlave) s

theorem serveTxn (s : State) (u : SlaveUnit) :
    SlaveCallAgrees k x (serveTxn k u s) (serveTxn k { u with lop := x } (s.restoreLop k x)) := by
  obtain ⟨ph, w, a, d, q, dir, lop, link, port⟩ := u
  cases dir with
  | capture => exact readCell fun _ => takeMatch (fun r => suWaitfor r k x _ .txnService r.cfg.tSlave) s
  | drive =>
    unfold Machine.serveTxn
    exact takeMatch (fun r => suWaitfor (r.drivePendingData d) k x _ .txnService r.cfg.tSlave) s

theorem suAwaitReady (s : State) (u : SlaveUnit) :
    SlaveCallAgrees k x (suAwaitReady k u s) (suAwaitReady k { u with lop := x } (s.restoreLop k x)) :=
  ite (readCell fun _ => ite (servePin s u) (suWaitfor s k x u .backoff s.cfg.tBackoff))
    (suSuspend s k x u .waitReady (.level .ready true))

theorem suAwaitRelease (s : State) (u : SlaveUnit) :
    SlaveCallAgrees k x (suAwaitRelease k u s) (suAwaitRelease k { u with lop := x } (s.restoreLop k x)) :=
  ite (suWaitfor s k x u .ackRel s.cfg.tAckRel) (suSuspend s k x u .waitRel (.level .ready false))

theorem testTxn (s : State) (u : SlaveUnit) :
    SlaveCallAgrees k x (testTxn k u s) (testTxn k { u with lop := x } (s.restoreLop k x)) :=
  readCell fun _ => ite (serveTxn s u) (suSuspend s k x u .txnWaitReady (.notice .readyNotice))

theorem slaveBegin (s : State) (u : SlaveUnit) :
    SlaveCallAgrees k x (slaveBegin k u s) (slaveBegin k { u with lop := x } (s.restoreLop k x)) := by
  have hc : (s.restoreLop k x).cfg = s.cfg := rfl
  unfold Machine.slaveBegin
  rw [hc]
  cases s.cfg.variant with
  | pin => exact suAwaitReady s u
  | txn => exact suSuspend s k x u .txnWaitReady (.notice .readyNotice)

/-- Before the release no segment returns, so it does not matter to where it would. -/
theorem slaveSegment {f g : SlaveUnit → State → Answer} {p : SlavePoint} (hp : p ≠ .ackRel) (hq : p ≠ .txnAckRel)
    (s : State) (u : SlaveUnit) :
    SlaveCallAgrees k x (slaveSegment k f p u s) (slaveSegment k g p { u with lop := x } (s.restoreLop k x)) := by
  cases p with
  | start => exact slaveBegin s u
  | waitReady | backoff => exact suAwaitReady s u
  | service => exact suAwaitRelease (s.driveAck true) u
  | waitRel => exact suAwaitRelease s u
  | ackRel => exact absurd rfl hp
  | txnWaitReady => exact testTxn s u
  | txnService => exact suWaitfor s k x u .txnAckRel s.cfg.tAckRel
  | txnAckRel => exact absurd rfl hq

end SlaveCallAgrees

end

theorem State.Runs.su_current {k : Nat} {u : SlaveUnit} {i : Instr} (h : s.Runs (.su k) i) (hk : s.su[k]? = some u) :
    u.current = some i := by
  obtain ⟨-, hc, -⟩ := h
  simpa [State.current, hk] using hc

section
variable {k : Nat} {u : SlaveUnit} {p : SlavePoint} (hk : s.su[k]? = some u) (hp : u.phase = .word p)
include hk hp

theorem execSr_run {a : Addr} (h : s.Runs (.su k) (.sr a)) :
    execSr a s = slaveSegment k (fun v t => completeSlave k (.word v.q) v t) p { u with susp := .none }
      (s.withSu k { u with susp := .none }) := by
  have hc := h.su_current hk
  obtain ⟨hsel, -, he⟩ := h
  simp [execSr, withSlave, hsel, hk, hp, hc, runSlave, he]

theorem execSw_run {a : Addr} {d : Word} (h : s.Runs (.su k) (.sw a d)) :
    execSw a d s = slaveSegment k (completeSlave k .nothing) p { u with susp := .none }
      (s.withSu k { u with susp := .none }) := by
  have hc := h.su_current hk
  obtain ⟨hsel, -, he⟩ := h
  simp [execSw, withSlave, hsel, hk, hp, hc, runSlave, he]

theorem execLsw_run {a : Addr} {n : Len} (h : s.Runs (.su k) (.lsw a n)) :
    execLsw a n s = slaveSegment k (lswReturn k) p { u with susp := .none }
      (s.withSu k { u with susp := .none }) := by
  have hc := h.su_current hk
  obtain ⟨hsel, -, he⟩ := h
  simp [execLsw, withSlave, hsel, hk, hp, hc, runSlave, he]

theorem execLsr_run {a : Addr} {n : Len} (h : s.Runs (.su k) (.lsr a n)) :
    execLsr a n s = slaveSegment k (lsrReturn k) p { u with susp := .none }
      (s.withSu k { u with susp := .none }) := by
  have hc := h.su_current hk
  obtain ⟨hsel, -, he⟩ := h
  simp [execLsr, withSlave, hsel, hk, hp, hc, runSlave, he]

end

/-- `SU[k]` with another `LOP` runs the operation that its registers then say. -/
theorem State.Runs.withSu {k : Nat} {u : SlaveUnit} {i j : Instr} {x : SlaveLop} (h : s.Runs (.su k) i)
    (hk : s.su[k]? = some u) (hj : { u with lop := x }.current = some j) :
    (s.withSu k { u with lop := x }).Runs (.su k) j := by
  obtain ⟨hsel, -, he⟩ := h
  obtain ⟨hsu, hc⟩ := Prod.mk.inj (State.view_withSu_self (s := s) { u with lop := x } hk)
  obtain ⟨-, hm⟩ := (State.enabled_iff (w := u.susp) (by simp [State.suspOf, hk])).mp he
  exact ⟨hsel, hc.trans hj, (State.enabled_iff hsu).mpr
    ⟨Option.isSome_of_eq_some (hc.trans hj), (Susp.met_congr _ rfl rfl).trans hm⟩⟩

/-- The word-level operation that a slave-side unit is inside, its `LOP` taken away. -/
theorem SlaveUnit.current_word {u : SlaveUnit} {p : SlavePoint} {j : Instr} (hp : u.phase = .word p)
    (hj : { u with lop := .none }.current = some j) : (∃ a, j = .sr a) ∨ ∃ a d, j = .sw a d := by
  cases hd : u.dir <;> simp [SlaveUnit.current, hp, hd] at hj
  · exact .inl ⟨_, hj.symm⟩
  · exact .inr ⟨_, _, hj.symm⟩

/-- A called SR or SW, before its release. -/
theorem exec_slaveCallAgrees {k : Nat} {u : SlaveUnit} {p : SlavePoint} {i j : Instr} (hk : s.su[k]? = some u)
    (h : s.Runs (.su k) i) (hp : u.phase = .word p) (hne : p ≠ .ackRel) (hne' : p ≠ .txnAckRel)
    (hi : ∃ a n, i = .lsw a n ∨ i = .lsr a n) (hj : { u with lop := .none }.current = some j) :
    SlaveCallAgrees k u.lop (exec j (s.withSu k { u with lop := .none })) (exec i s) := by
  have hr := h.withSu hk hj
  have hk' : (s.withSu k { u with lop := .none }).su[k]? = some { u with lop := .none } := by
    obtain ⟨hlt, -⟩ := List.getElem?_eq_some_iff.mp hk
    simp [hlt]
  have hs : s.withSu k { u with susp := .none } =
      ((s.withSu k { u with lop := .none }).withSu k { u with lop := .none, susp := .none }).restoreLop k u.lop := by
    rw [State.withSu_restoreLop, State.withSu_withSu]
  obtain ⟨f, hf⟩ : ∃ f, exec j (s.withSu k { u with lop := .none }) =
      slaveSegment k f p { u with lop := .none, susp := .none }
        ((s.withSu k { u with lop := .none }).withSu k { u with lop := .none, susp := .none }) := by
    rcases SlaveUnit.current_word hp hj with ⟨a, rfl⟩ | ⟨a, d, rfl⟩
    · exact ⟨_, execSr_run hk' hp hr⟩
    · exact ⟨_, execSw_run hk' hp hr⟩
  obtain ⟨g, hg⟩ : ∃ g, exec i s =
      slaveSegment k g p { u with susp := .none } (s.withSu k { u with susp := .none }) := by
    obtain ⟨a, n, rfl | rfl⟩ := hi
    · exact ⟨_, execLsw_run hk hp h⟩
    · exact ⟨_, execLsr_run hk hp h⟩
  rw [hf, hg, hs]
  exact .slaveSegment hne hne' _ _

/-- Settles O32: the segments of MW, MR and of SR and SW agree, called and alone. -/
theorem aCallRunsTheWordLevelOperation : Obligations.ACallRunsTheWordLevelOperation :=
  ⟨fun _ _ _ _ h hp => execLmw_callAgrees h hp, fun _ _ _ _ h hp => execLmr_callAgrees h hp,
    fun _ _ _ _ _ _ hk h hp hne hne' hi hj => exec_slaveCallAgrees hk h hp hne hne' hi hj⟩

end Sys2Proof.Machine
end

section
/-! The segments of the pin-accurate handshake (41_handshake_pin.md R94 to R99): a meaning put to a unit that runs it is
the segment of the place where the unit stands, and that segment is computed there. -/

namespace Sys2Proof.Machine

variable {s t : State}

/-! ## `MU` -/

/-- Settles O22: the segment of MW at each of its points. -/
theorem masterWriteUnderPin : Obligations.MasterWriteUnderPin := by
  intro s a d hv h
  have hrun : ∀ p, s.mu.phase = .mw p → exec (.mw a d) s =
      mwSegment (completeMaster .nothing) p (s.withMu { s.mu with susp := .none }) := fun p => execMw_run h
  obtain ⟨-, hc, -⟩ := h
  obtain ⟨-, hlop, rfl, rfl⟩ := MasterUnit.current_mw hc
  refine ⟨fun hp => ?_, fun hp ha => ?_, fun hp ha => ?_, fun hp ha => ?_, fun hp ha => ?_⟩
  · rw [hrun _ hp]
    exact congrArg Host.Outcome.next (mwBegin_pin hv)
  · rw [hrun _ hp]
    exact mwAwaitAck_next.mpr (.inr ⟨ha, rfl⟩)
  · rcases hp with hp | hp
    · have hready : (s.bus.ready || s.mu.phase == .mw .setup) = true := by rw [hp]; exact Bool.or_true _
      rw [hrun _ hp, hready]
      exact mwAwaitAck_next.mpr (.inl ⟨ha, rfl⟩)
    · have hready : (s.bus.ready || s.mu.phase == .mw .setup) = s.bus.ready := by rw [hp]; exact Bool.or_false _
      rw [hrun _ hp, hready]
      exact mwAwaitAck_next.mpr (.inl ⟨ha, rfl⟩)
  · rw [hrun _ hp]
    exact mwRelease_next.mpr (.inr ⟨ha, rfl⟩)
  · rcases hp with hp | hp
    · have hready : (s.bus.ready && s.mu.phase == .mw .waitRel) = false := by rw [hp]; exact Bool.and_false _
      rw [hrun _ hp, hready]
      exact mwRelease_next.mpr (.inl ⟨ha, completeMaster_next.mpr (by rw [← hlop]; rfl)⟩)
    · have hready : (s.bus.ready && s.mu.phase == .mw .waitRel) = s.bus.ready := by rw [hp]; exact Bool.and_true _
      rw [hrun _ hp, hready]
      exact mwRelease_next.mpr (.inl ⟨ha, completeMaster_next.mpr (by rw [← hlop]; rfl)⟩)

/-- Settles O23: the segment of MR at each of its points. -/
theorem masterReadUnderPin : Obligations.MasterReadUnderPin := by
  intro s a hv h
  have hrun : ∀ p, s.mu.phase = .mr p → exec (.mr a) s =
      mrSegment (fun t => completeMaster (.word t.mu.q) t) p (s.withMu { s.mu with susp := .none }) :=
    fun p => execMr_run h
  obtain ⟨-, hc, -⟩ := h
  obtain ⟨-, hlop, rfl⟩ := MasterUnit.current_mr hc
  refine ⟨fun hp => ?_, fun hp ha => ?_, fun w hp ha hw => ?_, fun hp ha => ?_, fun hp ha => ?_⟩
  · rw [hrun _ hp]
    exact congrArg Host.Outcome.next (mrBegin_pin hv)
  · rw [hrun _ hp]
    exact mrAwaitAck_next.mpr (.inr ⟨ha, rfl⟩)
  · rcases hp with hp | hp
    · have hready : (s.bus.ready || s.mu.phase == .mr .setup) = true := by rw [hp]; exact Bool.or_true _
      rw [hrun _ hp, hready]
      exact mrAwaitAck_next.mpr (.inl ⟨ha, w, hw, rfl⟩)
    · have hready : (s.bus.ready || s.mu.phase == .mr .setup) = s.bus.ready := by rw [hp]; exact Bool.or_false _
      rw [hrun _ hp, hready]
      exact mrAwaitAck_next.mpr (.inl ⟨ha, w, hw, rfl⟩)
  · rw [hrun _ hp]
    exact mrRelease_next.mpr (.inr ⟨ha, rfl⟩)
  · rcases hp with hp | hp
    · have hready : (s.bus.ready && s.mu.phase == .mr .waitRel) = false := by rw [hp]; exact Bool.and_false _
      rw [hrun _ hp, hready]
      exact mrRelease_next.mpr (.inl ⟨ha, completeMaster_next.mpr (by rw [← hlop]; rfl)⟩)
    · have hready : (s.bus.ready && s.mu.phase == .mr .waitRel) = s.bus.ready := by rw [hp]; exact Bool.and_true _
      rw [hrun _ hp, hready]
      exact mrRelease_next.mpr (.inl ⟨ha, completeMaster_next.mpr (by rw [← hlop]; rfl)⟩)

/-! ## `SU[k]` -/

section
variable {k : Nat} {u : SlaveUnit} {i : Instr}

@[simp] theorem State.withSu_suWaitfor (s : State) (k : Nat) (u v : SlaveUnit) (p : SlavePoint) (n : Nat) :
    (s.withSu k v).suWaitfor k u p n = s.suWaitfor k u p n := s.withSu_withSu k _ _

@[simp] theorem State.withSu_suSuspend (s : State) (k : Nat) (u v : SlaveUnit) (p : SlavePoint) (w : Susp) :
    (s.withSu k v).suSuspend k u p w = s.suSuspend k u p w := s.withSu_withSu k _ _

/-- Whatever operation a slave-side unit runs inside SR or SW, its move is a segment of them. -/
theorem exec_slaveSegment {p : SlavePoint} (hk : s.su[k]? = some u) (hp : u.phase = .word p) (h : s.Runs (.su k) i) :
    ∃ ret, exec i s = slaveSegment k ret p { u with susp := .none } (s.withSu k { u with susp := .none }) := by
  have hc := h.su_current hk
  simp only [SlaveUnit.current, hp] at hc
  split at hc
  · cases hc; exact ⟨_, execLsw_run hk hp h⟩
  · cases hc; exact ⟨_, execLsr_run hk hp h⟩
  · split at hc
    · cases hc; exact ⟨_, execSr_run hk hp h⟩
    · cases hc; exact ⟨_, execSw_run hk hp h⟩

/-- A unit awaiting the matching address looks at `ready`, from its first line, its wait and its backoff alike. -/
theorem exec_suAwaitReady (hv : s.cfg.variant = .pin) (hk : s.su[k]? = some u)
    (hp : u.phase = .word .start ∨ u.phase = .word .waitReady ∨ u.phase = .word .backoff) (h : s.Runs (.su k) i) :
    exec i s = suAwaitReady k { u with susp := .none } (s.withSu k { u with susp := .none }) := by
  rcases hp with hp | hp | hp
  · obtain ⟨ret, he⟩ := exec_slaveSegment hk hp h
    exact he.trans (by simp [slaveSegment, slaveBegin, hv])
  · obtain ⟨ret, he⟩ := exec_slaveSegment hk hp h
    exact he
  · obtain ⟨ret, he⟩ := exec_slaveSegment hk hp h
    exact he

end

/-- Settles O24: the pass of `suAwaitReady` with `ready` 0, and the matched one in either direction. -/
theorem slaveMatchUnderPin : Obligations.SlaveMatchUnderPin := by
  refine fun s k u hv hk hp => ⟨fun i h hr => ?_, fun a w h hr ha hw hs hm => ?_, fun a d h hr ha hs hm => ?_⟩
  · rw [exec_suAwaitReady hv hk hp h]
    exact suAwaitReady_next.mpr (.inr ⟨hr, State.withSu_suSuspend ..⟩)
  · rw [exec_suAwaitReady hv hk hp h]
    obtain ⟨-, -, hdir, rfl⟩ := SlaveUnit.current_sr (h.su_current hk)
    refine suAwaitReady_next.mpr (.inl ⟨hr, testPin_next.mpr ⟨_, ha, .inl ⟨rfl, servePin_next.mpr
      ⟨hs, .inl (hm.trans (congrArg some hdir.symm)), .inl ⟨hdir, w, hw, ?_⟩⟩⟩⟩⟩)
    exact State.withSu_suWaitfor (s.markServed true) ..
  · rw [exec_suAwaitReady hv hk hp h]
    obtain ⟨-, -, hdir, rfl, rfl⟩ := SlaveUnit.current_sw (h.su_current hk)
    refine suAwaitReady_next.mpr (.inl ⟨hr, testPin_next.mpr ⟨_, ha, .inl ⟨rfl, servePin_next.mpr
      ⟨hs, .inl (hm.trans (congrArg some hdir.symm)), .inr ⟨hdir, ?_⟩⟩⟩⟩⟩)
    exact State.withSu_suWaitfor ((s.markServed true).driveData u.d) ..

/-- Settles O25: the segments after the service, and the completions of SR and SW. -/
theorem slaveAcknowledgeUnderPin : Obligations.SlaveAcknowledgeUnderPin := by
  refine fun s k u hv hk => ⟨fun i h hp hr => ?_, fun i h hp hr => ?_, fun a h hp => ?_, fun a d h hp => ?_⟩
  · obtain ⟨ret, he⟩ := exec_slaveSegment hk hp h
    rw [he]
    exact suAwaitRelease_next.mpr (.inr ⟨hr, State.withSu_suSuspend (s.driveAck true) ..⟩)
  · rcases hp with hp | hp
    · have hack : (s.bus.ack || u.phase == .word .service) = true := by rw [hp]; exact Bool.or_true _
      obtain ⟨ret, he⟩ := exec_slaveSegment hk hp h
      rw [he, hack]
      exact suAwaitRelease_next.mpr (.inl ⟨hr, State.withSu_suWaitfor (s.driveAck true) ..⟩)
    · have hack : (s.bus.ack || u.phase == .word .service) = s.bus.ack := by rw [hp]; exact Bool.or_false _
      obtain ⟨ret, he⟩ := exec_slaveSegment hk hp h
      rw [he, hack]
      exact suAwaitRelease_next.mpr (.inl ⟨hr, State.withSu_suWaitfor ..⟩)
  · obtain ⟨-, hlop, -⟩ := SlaveUnit.current_sr (h.su_current hk)
    refine (execSr_run hk hp h).trans (completeSlave_next.mpr ?_)
    rw [← hlop]
    exact (s.driveAck false).withSu_withSu k _ _
  · obtain ⟨-, hlop, -⟩ := SlaveUnit.current_sw (h.su_current hk)
    refine (execSw_run hk hp h).trans (completeSlave_next.mpr ?_)
    rw [← hlop]
    exact (s.driveAck false).withSu_withSu k _ _

end Sys2Proof.Machine
end

section
/-! The line `ack` (41_handshake_pin.md R99, R102): a mismatched pass leaves it alone, and only a slave-side unit at the
end of its service raises it (`step_raises_ack`). -/

namespace Sys2Proof.Machine

variable {s t : State}

/-- `ack` is 1 in `t` only where it was in `s`. -/
def State.RaisesNoAck (s t : State) : Prop := t.bus.ack = true → s.bus.ack = true

theorem State.RaisesNoAck.of_eq (h : t.bus.ack = s.bus.ack) : s.RaisesNoAck t := fun ht => h.symm.trans ht

/-! ## `MU` -/

theorem mwBegin_ack (s : State) : (mwBegin s).bus.ack = s.bus.ack := by
  unfold mwBegin; split <;> rfl

theorem mrBegin_ack (s : State) : (mrBegin s).bus.ack = s.bus.ack := by
  unfold mrBegin; split <;> rfl

theorem lmwContinue_ack {r : Link × Bool} (h : lmwContinue r s = .next t) : t.bus.ack = s.bus.ack := by
  unfold lmwContinue at h
  split at h
  · cases h
    exact mwBegin_ack (s.withMu _)
  · cases h
    rfl

theorem lmrContinue_ack {r : Link × Bool} (h : lmrContinue r s = .next t) : t.bus.ack = s.bus.ack := by
  unfold lmrContinue at h
  split at h
  · cases h
    exact mrBegin_ack (s.withMu _)
  · cases h
    rfl

theorem State.MasterWrites.ack_eq (h : s.MasterWrites t) : t.bus.ack = s.bus.ack := by
  obtain ⟨-, -, -, -, -, -, -, -, hack⟩ := h.fixed
  exact hack

/-- No operation of `MU` drives `ack`. -/
theorem execMu_ack {i : Instr} (hi : i.acceptedBy = .master) (h : exec i s = .next t) : t.bus.ack = s.bus.ack := by
  cases i with
  | mw a d =>
    obtain ⟨hw, -⟩ := execMw_writes h
    exact hw.ack_eq
  | mr a =>
    obtain ⟨hw, -⟩ := execMr_writes h
    exact hw.ack_eq
  | lmw a n =>
    obtain ⟨-, ⟨-, -, rfl⟩ | ⟨-, -, -, hc⟩ | ⟨p, hp, -, -, hm⟩⟩ := execLmw_next.mp h
    · rfl
    · exact lmwContinue_ack hc
    · obtain ⟨r, hw, -, hr⟩ := mwSegment_writes (s := s.withMu { s.mu with susp := .none }) hp hm
      rcases hr with rfl | hr
      · exact hw.ack_eq
      · exact (lmwContinue_ack hr).trans hw.ack_eq
  | lmr a n =>
    obtain ⟨-, ⟨-, -, rfl⟩ | ⟨-, -, -, hc⟩ | ⟨p, hp, -, -, hm⟩⟩ := execLmr_next.mp h
    · rfl
    · exact lmrContinue_ack hc
    · obtain ⟨r, hw, -, hr⟩ := mrSegment_writes (s := s.withMu { s.mu with susp := .none }) hp hm
      rcases hr with rfl | hr
      · exact hw.ack_eq
      · exact (lmrContinue_ack hr).trans hw.ack_eq
  | sw | sr | lsw | lsr | isend | irecv => cases hi

/-! ## `SU[k]` -/

section
variable {k : Nat} {u : SlaveUnit}

theorem servePin_ack (h : servePin k u s = .next t) : t.bus.ack = s.bus.ack := by
  obtain ⟨-, -, ⟨-, w, -, rfl⟩ | ⟨-, rfl⟩⟩ := servePin_next.mp h
  · rfl
  · rfl

theorem testTxn_ack (h : testTxn k u s = .next t) : t.bus.ack = s.bus.ack := by
  obtain ⟨x, -, ⟨-, hm⟩ | ⟨-, rfl⟩⟩ := testTxn_next.mp h
  · obtain ⟨-, -, ⟨-, w, -, rfl⟩ | ⟨-, rfl⟩⟩ := serveTxn_next.mp hm
    · rfl
    · rfl
  · rfl

theorem suAwaitReady_ack (h : suAwaitReady k u s = .next t) : t.bus.ack = s.bus.ack := by
  rcases suAwaitReady_next.mp h with ⟨-, ht⟩ | ⟨-, rfl⟩
  · obtain ⟨x, -, ⟨-, hm⟩ | ⟨-, rfl⟩⟩ := testPin_next.mp ht
    · exact servePin_ack hm
    · rfl
  · rfl

theorem slaveBegin_ack (h : slaveBegin k u s = .next t) : t.bus.ack = s.bus.ack := by
  rcases slaveBegin_next.mp h with ⟨-, ha⟩ | ⟨-, rfl⟩
  · exact suAwaitReady_ack ha
  · rfl

theorem lswContinue_ack {r : Link × Bool} (h : lswContinue k r u s = .next t) : t.bus.ack = s.bus.ack := by
  unfold lswContinue at h
  split at h
  · exact slaveBegin_ack h
  · cases h
    rfl

theorem lsrContinue_ack {r : Link × Bool} (h : lsrContinue k r u s = .next t) : t.bus.ack = s.bus.ack := by
  unfold lsrContinue at h
  split at h
  · exact slaveBegin_ack h
  · cases h
    rfl

/-- `SU[k]`, which is `u`, goes from its service to the wait for the release, or on to the release. -/
def State.EndsService (s : State) (k : Nat) (u : SlaveUnit) (t : State) : Prop :=
  s.su[k]? = some u ∧ u.phase = .word .service ∧
    ∃ w, t.su[k]? = some w ∧ (w.phase = .word .waitRel ∨ w.phase = .word .ackRel) ∧ w.a = u.a

theorem suAwaitRelease_cases (hk : k < s.su.length) (h : suAwaitRelease k u s = .next t) :
    t.bus.ack = s.bus.ack ∧
      ∃ w, t.su[k]? = some w ∧ (w.phase = .word .waitRel ∨ w.phase = .word .ackRel) ∧ w.a = u.a := by
  rcases suAwaitRelease_next.mp h with ⟨-, rfl⟩ | ⟨-, rfl⟩
  · exact ⟨rfl, _, List.getElem?_set_self hk, .inr rfl, rfl⟩
  · exact ⟨rfl, _, List.getElem?_set_self hk, .inl rfl, rfl⟩

/-- A segment of SR or SW drives `ack` to 1 only at the end of the service. -/
theorem slaveSegment_raises_ack {ret : SlaveUnit → State → Answer} {p : SlavePoint} (hk : s.su[k]? = some u)
    (hp : u.phase = .word p) (hret : ∀ u s t, ret u s = .next t → t.bus.ack = s.bus.ack)
    (h : slaveSegment k ret p { u with susp := .none } (s.withSu k { u with susp := .none }) = .next t) :
    s.RaisesNoAck t ∨ s.EndsService k u t := by
  rcases slaveSegment_next h with
    ⟨-, hb⟩ | ⟨-, ha⟩ | (⟨rfl, hr⟩ | ⟨-, hr⟩) | ⟨-, hr⟩ | ⟨-, ht⟩ | ⟨-, rfl⟩ | ⟨-, hr⟩
  · exact .inl (.of_eq (slaveBegin_ack hb :))
  · exact .inl (.of_eq (suAwaitReady_ack ha :))
  · obtain ⟨hlt, -⟩ := List.getElem?_eq_some_iff.mp hk
    obtain ⟨-, hw⟩ := suAwaitRelease_cases (by simpa using hlt) hr
    exact .inr ⟨hk, hp, hw⟩
  · obtain ⟨hlt, -⟩ := List.getElem?_eq_some_iff.mp hk
    obtain ⟨hack, -⟩ := suAwaitRelease_cases (by simpa using hlt) hr
    exact .inl (.of_eq hack)
  · exact .inl fun ht => by simp [hret _ _ _ hr] at ht
  · exact .inl (.of_eq (testTxn_ack ht :))
  · exact .inl (.of_eq rfl)
  · exact .inl (.of_eq (hret _ _ _ hr :))

end

/-- An operation of a slave-side unit drives `ack` to 1 only at the end of the unit's service. -/
theorem execSu_raises_ack {i : Instr} (hi : i.acceptedBy = .slave) (h : exec i s = .next t) :
    s.RaisesNoAck t ∨ ∃ k u, s.sel = .su k ∧ s.EndsService k u t := by
  cases i with
  | sr a =>
    obtain ⟨k, u, hsel, hk, ⟨-, rfl⟩ | ⟨p, hp, -, -, hm⟩⟩ := execSr_next.mp h
    · exact .inl (.of_eq rfl)
    · exact (slaveSegment_raises_ack hk hp (fun _ _ _ hr => by cases hr; rfl) hm).imp_right fun he => ⟨k, u, hsel, he⟩
  | sw a d =>
    obtain ⟨k, u, hsel, hk, ⟨-, -, rfl⟩ | ⟨p, hp, -, -, hm⟩⟩ := execSw_next.mp h
    · exact .inl (.of_eq rfl)
    · exact (slaveSegment_raises_ack hk hp (fun _ _ _ hr => by cases hr; rfl) hm).imp_right fun he => ⟨k, u, hsel, he⟩
  | lsw a n =>
    obtain ⟨k, u, hsel, hk, ⟨-, -, rfl⟩ | ⟨-, -, -, hc⟩ | ⟨p, hp, -, -, hm⟩⟩ := execLsw_next.mp h
    · exact .inl (.of_eq rfl)
    · exact .inl (.of_eq (lswContinue_ack hc :))
    · exact (slaveSegment_raises_ack hk hp (fun _ _ _ => lswContinue_ack) hm).imp_right fun he => ⟨k, u, hsel, he⟩
  | lsr a n =>
    obtain ⟨k, u, hsel, hk, ⟨-, -, rfl⟩ | ⟨-, -, -, hc⟩ | ⟨p, hp, -, -, hm⟩⟩ := execLsr_next.mp h
    · exact .inl (.of_eq rfl)
    · exact .inl (.of_eq (lsrContinue_ack hc :))
    · exact (slaveSegment_raises_ack hk hp (fun _ _ _ => lsrContinue_ack) hm).imp_right fun he => ⟨k, u, hsel, he⟩
  | mw | mr | lmw | lmr | isend | irecv => cases hi

/-! ## Every operation, every step -/

theorem exec_raises_ack {i : Instr} (h : exec i s = .next t) :
    s.RaisesNoAck t ∨ ∃ k u, s.sel = .su k ∧ s.EndsService k u t := by
  cases hi : i.acceptedBy with
  | master => exact .inl (.of_eq (execMu_ack hi h))
  | slave => exact execSu_raises_ack hi h
  | sender =>
    cases i with
    | isend =>
      obtain ⟨-, ⟨-, rfl⟩ | ⟨-, -, hp⟩ | ⟨-, -, hp⟩⟩ := execIsend_next.mp h
      · exact .inl (.of_eq rfl)
      · cases hp
        exact .inl (.of_eq (congrArg BusSignals.ack (State.driveIntr_bus _ true)))
      · cases hp
        exact .inl (.of_eq (congrArg BusSignals.ack (State.driveIntr_bus _ false)))
    | mw | mr | sw | sr | lmw | lmr | lsw | lsr | irecv => cases hi
  | receiver =>
    cases i with
    | irecv =>
      obtain ⟨j, u, -, -, ⟨-, rfl⟩ | ⟨-, -, rfl⟩ | ⟨-, -, rfl⟩⟩ := execIrecv_next.mp h
      · exact .inl (.of_eq rfl)
      · exact .inl (.of_eq rfl)
      · exact .inl (.of_eq rfl)
    | mw | mr | sw | sr | lmw | lmr | lsw | lsr | isend => cases hi

/-- A step raises `ack` only as the end of a service: an issue, to an idle unit, does not, nor does time passing. -/
theorem step_raises_ack (h : step s = .next t) : s.RaisesNoAck t ∨ ∃ k u, s.EndsService k u t := by
  obtain ⟨-, ⟨v, r, hc, hm⟩ | ⟨-, n, -, rfl⟩⟩ := step_next.mp h
  · obtain ⟨-, ag, tk, rfl⟩ := State.choose_some hc
    rcases move_next.mp hm with ⟨i, -, he⟩ | ⟨hnone, c, i, -, -, he⟩
    · rcases exec_raises_ack he with hn | ⟨k, u, -, hu⟩
      · exact .inl hn
      · exact .inr ⟨k, u, hu⟩
    · have hbus : (State.present v c { s with agenda := ag, tick := tk }).bus = s.bus := State.popCommand_bus v
      rcases exec_raises_ack he with hn | ⟨k, u, hsel, hk, hp, -⟩
      · exact .inl fun ht => hbus ▸ hn ht
      · obtain rfl : v = .su k := hsel
        obtain ⟨-, hcur⟩ :=
          State.view_eq_iff.mp (State.present_view { s with agenda := ag, tick := tk } (.su k) c (.su k))
        have hidle : u.current = none := by simpa [State.current, hk] using hcur.trans hnone
        rw [u.current_eq_none, hp] at hidle
        cases hidle
  · exact .inl (.of_eq rfl)

/-- Settles O26: the mismatched pass of `suAwaitReady`, and the place of the serving unit in the handshake before the
step that ends its service. -/
theorem mismatchIsARetryAndNothingElse : Obligations.MismatchIsARetryAndNothingElse := by
  refine ⟨fun s k u i x hv hk h hp hr hx hne => ⟨_, ?_, rfl, ?_⟩, fun s t hs h h0 h1 => ?_⟩
  · rw [exec_suAwaitReady hv hk hp h]
    exact suAwaitReady_next.mpr (.inl ⟨hr, testPin_next.mpr ⟨x, hx, .inr ⟨hne, State.withSu_suWaitfor ..⟩⟩⟩)
  · have hc := h.su_current hk
    obtain ⟨hlt, -⟩ := List.getElem?_eq_some_iff.mp hk
    rcases hp with hp | hp | hp <;> simpa [State.current, hlt, SlaveUnit.current, hp] using hc
  · rcases step_raises_ack h with hn | ⟨k, u, hk, hp, w, hw, hwp, hwa⟩
    · exact absurd (hn h1) (by simp [h0])
    · obtain ⟨-, -, ⟨hserved, ha, -, hsv, -⟩, -⟩ := hs.onlyServes hk (by rw [hp]; rfl)
      obtain ⟨-, -, -, haddr, -⟩ := hs.master
      obtain ⟨hd, -⟩ := MasterUnit.driving_pairs_of_awaitsAck (hsv hp).2
      exact ⟨k, u, w, hk, hp, hserved, (haddr hd).trans (congrArg some ha.symm), hw, hwp, hwa⟩

/-! ## Delivery -/

/-- `MU` waits for the release in MW, which pairs with SR, or in MR, which pairs with SW. -/
theorem MasterUnit.awaitsRelease_cases {u : MasterUnit} (h : u.phase.awaitsRelease = true) :
    (u.phase = .mw .waitRel ∧ u.pairs = some .capture) ∨ (u.phase = .mr .waitRel ∧ u.pairs = some .drive) := by
  unfold MasterPhase.awaitsRelease at h
  split at h
  case h_1 hp => exact .inl ⟨hp, by simp [MasterUnit.pairs, hp]⟩
  case h_2 hp => exact .inr ⟨hp, by simp [MasterUnit.pairs, hp]⟩
  case h_3 => cases h

/-- While `MU` waits for the release, `ready` is 0 and its address is on the lines. -/
theorem State.MasterHandshake.released (h : s.MasterHandshake) (hr : s.mu.phase.awaitsRelease = true) :
    s.bus.ready = false ∧ s.bus.address = some s.mu.a := by
  obtain ⟨-, hready, -, haddr, -⟩ := h
  rcases MasterUnit.awaitsRelease_cases hr with ⟨hp, -⟩ | ⟨hp, -⟩
  · exact ⟨by rw [hready, hp]; rfl, haddr (by rw [hp]; rfl)⟩
  · exact ⟨by rw [hready, hp]; rfl, haddr (by rw [hp]; rfl)⟩

/-- Settles O57: what the handshake says of the unit that serves, at the end of its release, and the completions of SR
and SW. -/
theorem completionDeliversTheWord : Obligations.CompletionDeliversTheWord := by
  intro s k u h hk hp
  obtain ⟨-, -, ⟨-, ha, hpair, -, -, har, hcap, hdrv⟩, -⟩ := h.onlyServes hk (by rw [hp]; rfl)
  obtain ⟨-, hrel⟩ := har hp
  obtain ⟨hready, haddr⟩ := h.master.released hrel
  obtain ⟨-, -, hsr, hsw⟩ := slaveAcknowledgeUnderPin s k u h.pin hk
  obtain ⟨hlt, -⟩ := List.getElem?_eq_some_iff.mp hk
  refine ⟨hready, haddr.trans (congrArg some ha.symm), ha, fun a hrun => ?_, fun a d hrun => ?_⟩
  · obtain ⟨-, -, hdir, rfl⟩ := SlaveUnit.current_sr (hrun.su_current hk)
    rcases MasterUnit.awaitsRelease_cases hrel with ⟨hmp, -⟩ | ⟨-, hd⟩
    · exact ⟨hmp, _, _, hsr _ hrun hp, List.getElem?_set_self hlt, by rw [hcap hdir], ha, hready, rfl⟩
    · simp [hd, hdir] at hpair
  · obtain ⟨-, -, hdir, rfl, rfl⟩ := SlaveUnit.current_sw (hrun.su_current hk)
    rcases MasterUnit.awaitsRelease_cases hrel with ⟨-, hd⟩ | ⟨hmp, -⟩
    · simp [hd, hdir] at hpair
    · obtain ⟨-, hq⟩ := hdrv hdir
      exact ⟨hmp, _, hsw _ _ hrun hp, hq (by rw [hmp]; rfl), ha, hready, rfl⟩

end Sys2Proof.Machine
end

section
/-! Runs of one transfer (41_handshake_pin.md R100, R101, R104): `MU` and the one slave-side unit move, every other unit
rests. A `Scene` is what such a run turns on, and one scene leads to another whatever the rest of the state is
(`Leads`): by the move of the one unit that can move, or by the time passing up to the end of a `waitfor`. -/

namespace Sys2Proof.Machine

/-! ## Runs -/

theorem runSteps_succ {n : Nat} {s t : State} (h : step s = .next t) : runSteps (n + 1) s = runSteps n t := by
  simp [runSteps, h]

theorem runSteps_add {m n : Nat} {s t : State} (h : runSteps m s = .next t) : runSteps (m + n) s = runSteps n t := by
  induction m generalizing s with
  | zero => cases h; rw [Nat.zero_add]
  | succ m ih =>
    rw [Nat.succ_add]
    cases hs : step s with
    | next r =>
      rw [runSteps_succ hs] at h ⊢
      exact ih h
    | fault | refused => simp [runSteps, hs] at h

theorem State.Reaches.refl (s : State) : s.Reaches s := ⟨0, rfl⟩

theorem State.Reaches.trans {r s t : State} (h : r.Reaches s) (h' : s.Reaches t) : r.Reaches t := by
  obtain ⟨m, hm⟩ := h
  obtain ⟨n, hn⟩ := h'
  exact ⟨m + n, (runSteps_add hm).trans hn⟩

theorem State.Reaches.of_step {s t : State} (h : step s = .next t) : s.Reaches t := ⟨1, by simp [runSteps, h]⟩

/-- The only unit that can move is chosen. -/
theorem State.choose_only {s : State} {v : UnitId} (hv : v ∈ s.moves) (ho : ∀ u ∈ s.moves, u = v) :
    ∃ ag tk, s.choose = some (v, { s with agenda := ag, tick := tk }) := by
  cases hc : s.choose with
  | none => rw [State.choose_none.mp hc] at hv; cases hv
  | some c =>
    obtain ⟨u, r⟩ := c
    obtain ⟨hu, ag, tk, rfl⟩ := State.choose_some hc
    exact ⟨ag, tk, by rw [ho u hu]⟩

/-! ## Scenes -/

/-- `MU` and the one slave-side unit, with what they share. -/
structure Scene where
  cfg : Config
  now : Nat
  bus : BusSignals
  served : Bool
  mu : MasterUnit
  su : SlaveUnit

/-- The scene, in a state that holds everything else. -/
def Scene.on (x : Scene) (s : State) : State :=
  { s with cfg := x.cfg, now := x.now, bus := x.bus, served := x.served, mu := x.mu, su := [x.su] }

/-- The configuration is admitted, and the host has nothing more to issue to the two units. -/
def Scene.Ok (x : Scene) : Prop := x.cfg.legal = true ∧ x.mu.port.todo = [] ∧ x.su.port.todo = []

/-- The interrupt units rest. -/
def State.OthersRest (s : State) : Prop := s.Rests .is ∧ ∀ r ∈ s.rcv, r.phase = .idle ∧ r.port.todo = []

/-- A suspension lets its unit run now (40_execution_model.md R76). -/
def Scene.Met (x : Scene) : Susp → Prop
  | .none => True
  | .until t => t = x.now
  | .level .ready v => x.bus.ready = v
  | .level .ack v => x.bus.ack = v
  | .edge => False
  | .notice _ => False

/-- The units of the scene that can move. -/
def Scene.Moves (x : Scene) : UnitId → Prop
  | .mu => x.mu.phase ≠ .idle ∧ x.Met x.mu.susp
  | .su 0 => x.su.phase ≠ .idle ∧ x.Met x.su.susp
  | _ => False

variable {x y z : Scene} {s : State}

theorem Scene.met_iff (w : Susp) : w.met (x.on s) = true ↔ x.Met w := by
  rcases w with _ | t | ⟨_ | _, v⟩ | _ | _ <;> simp [Susp.met, Scene.Met, Scene.on, State.level]

theorem Scene.enabled_mu : (x.on s).enabled .mu = true ↔ x.Moves .mu := by
  rw [State.enabled_iff (w := x.mu.susp) rfl, Scene.met_iff]
  exact and_congr_left fun _ => Option.isSome_iff_ne_none.trans (not_congr x.mu.current_eq_none)

theorem Scene.enabled_su : (x.on s).enabled (.su 0) = true ↔ x.Moves (.su 0) := by
  rw [State.enabled_iff (w := x.su.susp) rfl, Scene.met_iff]
  exact and_congr_left fun _ => Option.isSome_iff_ne_none.trans (not_congr x.su.current_eq_none)

/-- A unit that rests has no move. -/
theorem State.Rests.immovable {u : UnitId} (h : s.Rests u) : ¬ (s.enabled u = true ∨ ∃ c, s.dueCommand u = some c) := by
  obtain ⟨hc, hp⟩ := h
  obtain ⟨p, hport, htodo⟩ := Option.map_eq_some_iff.mp hp
  simp [State.enabled, State.dueCommand, hc, hport, htodo]

theorem State.OthersRest.receiver {j : Nat} (h : s.OthersRest) (hj : .ir j ∈ s.units) : s.Rests (.ir j) := by
  obtain ⟨-, hr⟩ := h
  have hlt : j < s.rcv.length := by simpa [State.units] using hj
  obtain ⟨hp, ht⟩ := hr _ (List.getElem_mem hlt)
  exact ⟨by simp [State.current, hlt, ReceiverUnit.current, hp], by simp [State.portOf, hlt, ht]⟩

/-- Time passing changes no more than the hidden bit of a receiver. -/
theorem State.OthersRest.advance (h : s.OthersRest) (n : Nat) : (s.advance n).OthersRest := by
  obtain ⟨hsnd, hrcv⟩ := h
  refine ⟨hsnd, fun r hr => ?_⟩
  obtain ⟨v, hv, rfl⟩ := List.mem_map.mp hr
  obtain ⟨p, hp, -⟩ := ReceiverUnit.sample_eq s.cfg s.intr s.now n v
  rw [hp]
  exact hrcv v hv

/-- No command is due where none is left to issue. -/
theorem State.dueCommand_eq_none {u : UnitId} {p : Port} (hp : s.portOf u = some p) (ht : p.todo = []) :
    s.dueCommand u = none := by
  simp [State.dueCommand, hp, ht]

theorem Scene.mem_moves_iff (hx : x.Ok) (hs : s.OthersRest) {v : UnitId} : v ∈ (x.on s).moves ↔ x.Moves v := by
  obtain ⟨-, hmu, hsu⟩ := hx
  have hrcv : ∀ {j}, .ir j ∈ (x.on s).units → (x.on s).Rests (.ir j) := State.OthersRest.receiver (s := x.on s) hs
  obtain ⟨hsnd, -⟩ := hs
  have hsnd : (x.on s).Rests .is := hsnd
  rw [State.mem_moves_iff]
  cases v with
  | mu =>
    rw [Scene.enabled_mu, State.dueCommand_eq_none (s := x.on s) (p := x.mu.port) rfl hmu]
    simp [State.units]
  | su k =>
    cases k with
    | zero =>
      rw [Scene.enabled_su, State.dueCommand_eq_none (s := x.on s) (p := x.su.port) rfl hsu]
      simp [State.units, Scene.on]
    | succ k => simp [State.units, Scene.on, Scene.Moves]
  | is => exact iff_of_false (fun ⟨_, h⟩ => hsnd.immovable h) id
  | ir j => exact iff_of_false (fun ⟨hj, h⟩ => (hrcv hj).immovable h) id

/-- No unit moves where both are idle. -/
theorem Scene.moves_eq_nil (hx : x.Ok) (hs : s.OthersRest) (hm : x.mu.phase = .idle) (hu : x.su.phase = .idle) :
    (x.on s).moves = [] := by
  refine List.eq_nil_iff_forall_not_mem.mpr fun v hv => ?_
  match v, (Scene.mem_moves_iff hx hs).mp hv with
  | .mu, ⟨hne, _⟩ => exact hne hm
  | .su 0, ⟨hne, _⟩ => exact hne hu

/-- Who waits for `ready` 1 waits while it is 0. -/
theorem Scene.not_met_ready (hr : x.bus.ready = false) : ¬ x.Met (.level .ready true) := fun h => by
  cases hr.symm.trans h

/-! ## One scene leads to another -/

/-- From the first scene the machine gets to the second, whatever the rest of the state. -/
def Leads (x y : Scene) : Prop :=
  x.Ok → y.Ok ∧ ∀ s : State, s.OthersRest → ∃ t : State, t.OthersRest ∧ (x.on s).Reaches (y.on t)

namespace Leads

theorem refl (x : Scene) : Leads x x := fun hx => ⟨hx, fun s hs => ⟨s, hs, .refl _⟩⟩

theorem trans (h : Leads x y) (h' : Leads y z) : Leads x z := by
  intro hx
  obtain ⟨hy, hxy⟩ := h hx
  obtain ⟨hz, hyz⟩ := h' hy
  refine ⟨hz, fun s hs => ?_⟩
  obtain ⟨t, ht, hst⟩ := hxy s hs
  obtain ⟨r, hr, htr⟩ := hyz t ht
  exact ⟨r, hr, hst.trans htr⟩

/-- By the move of the only unit that can move. -/
theorem move {v : UnitId} {i : Instr} (hok : x.Ok → y.Ok) (hv : x.Moves v) (ho : ∀ u, x.Moves u → u = v)
    (hi : ∀ s, (x.on s).current v = some i)
    (he : ∀ s, (x.on s).Runs v i → exec i (x.on s) = .next (y.on s)) : Leads x y := by
  refine fun hx => ⟨hok hx, fun s hs => ?_⟩
  have hmem : v ∈ (x.on s).moves := (Scene.mem_moves_iff hx hs).mpr hv
  obtain ⟨ag, tk, hc⟩ := State.choose_only hmem fun u hu => ho u ((Scene.mem_moves_iff hx hs).mp hu)
  obtain ⟨hl, -⟩ := hx
  obtain ⟨hstep, -⟩ := stepRunsTheDecodedOperation _ _ v hl hc
  have hen : ∀ r, (x.on r).enabled v = true := fun r => by
    match v, hv with
    | .mu, hv => exact Scene.enabled_mu.mpr hv
    | .su 0, hv => exact Scene.enabled_su.mpr hv
  let r : State := { s with sel := v, agenda := ag, tick := tk }
  exact ⟨r, hs, .of_step ((hstep i (hi _)).trans (he r ⟨rfl, hi r, hen r⟩))⟩

/-- By the time passing up to the end of a `waitfor`, no unit being able to move before. -/
theorem wait {t : Nat} (hw : x.mu.susp = .until t ∨ x.su.susp = .until t) (hle : x.now ≤ t)
    (hq : ∀ n, n < t → ∀ v, ¬ { x with now := n }.Moves v) : Leads x { x with now := t } := by
  obtain ⟨d, hd⟩ := Nat.exists_eq_add_of_le hle
  induction d using Nat.strong_induction_on generalizing x with
  | _ d ih =>
    obtain rfl | hlt := Nat.eq_or_lt_of_le hle
    · exact refl x
    · refine fun hx => ⟨hx, fun s hs => ?_⟩
      have hm : (x.on s).moves = [] :=
        List.eq_nil_iff_forall_not_mem.mpr fun v hv => hq _ hlt v ((Scene.mem_moves_iff hx hs).mp hv)
      have hmem : t ∈ (x.on s).eventTimes := by
        rcases hw with hw | hw
        · exact State.mem_eventTimes (u := .mu) (congrArg some hw)
        · exact State.mem_eventTimes (u := .su 0) (congrArg some hw)
      obtain ⟨n, hn⟩ : ∃ n, (x.on s).nextTime = some n :=
        Option.ne_none_iff_exists'.mp fun h => absurd (leastAbove_none.mp h t hmem) (Nat.not_le.mpr hlt)
      obtain ⟨-, hxn, hleast⟩ := leastAbove_some hn
      have hnt : n ≤ t := hleast t hmem hlt
      obtain ⟨hl, -⟩ := id hx
      have hstep : step (x.on s) = .next ((x.on s).advance n) :=
        step_next.mpr ⟨hl, .inr ⟨State.choose_none.mpr hm, n, hn, rfl⟩⟩
      have hxn : x.now < n := hxn
      obtain ⟨-, hrest⟩ := ih (t - n) (by omega) (x := { x with now := n }) hw hnt hq (Nat.add_sub_cancel' hnt).symm hx
      obtain ⟨r, hr, hreach⟩ := hrest _ (State.OthersRest.advance (s := x.on s) hs n)
      exact ⟨r, hr, (State.Reaches.of_step hstep).trans hreach⟩

end Leads

end Sys2Proof.Machine
end

section
/-! The two timelines under PIN (41_handshake_pin.md R100, R101, R104), stage by stage: up to the match, up to the
master's sight of `ack`, up to the fall of `ready`, and up to both completions. What the slave side does from
its service on is the same in both. -/

namespace Sys2Proof.Machine

variable {x y : Scene} {s : State}

/-- `MU` at another place. -/
def MasterUnit.goto (u : MasterUnit) (p : MasterPhase) (w : Susp) : MasterUnit := { u with phase := p, susp := w }

/-- A slave-side unit at another point of SR or SW. -/
def SlaveUnit.goto (u : SlaveUnit) (p : SlavePoint) (w : Susp) : SlaveUnit := { u with phase := .word p, susp := w }

/-- `MU` having completed at a time. -/
def MasterUnit.doneAt (u : MasterUnit) (n : Nat) (r : Result) : MasterUnit :=
  { u with phase := .idle, susp := .none, port := ⟨u.port.todo, some ⟨n, r⟩⟩ }

/-- A slave-side unit having completed at a time. -/
def SlaveUnit.doneAt (u : SlaveUnit) (n : Nat) (r : Result) : SlaveUnit :=
  { u with phase := .idle, susp := .none, port := ⟨u.port.todo, some ⟨n, r⟩⟩ }

theorem MasterUnit.current_goto_mw {u : MasterUnit} {a : Addr} {d : Word} (h : u.current = some (.mw a d)) (p : MwPoint)
    (w : Susp) : (u.goto (.mw p) w).current = some (.mw a d) := by
  obtain ⟨-, hlop, rfl, rfl⟩ := MasterUnit.current_mw h
  simp [MasterUnit.current, MasterUnit.goto, hlop]

theorem MasterUnit.current_goto_mr {u : MasterUnit} {a : Addr} (h : u.current = some (.mr a)) (p : MrPoint) (w : Susp) :
    (u.goto (.mr p) w).current = some (.mr a) := by
  obtain ⟨-, hlop, rfl⟩ := MasterUnit.current_mr h
  simp [MasterUnit.current, MasterUnit.goto, hlop]

theorem SlaveUnit.current_goto {u : SlaveUnit} {q : SlavePoint} (hq : u.phase = .word q) (p : SlavePoint) (w : Susp) :
    (u.goto p w).current = u.current := by
  simp [SlaveUnit.current, SlaveUnit.goto, hq]

namespace Leads

/-! ## Moves of one side while the other waits -/

/-- By a move of `MU`, the slave-side unit being idle or still waiting. -/
theorem master {i : Instr} (hok : x.Ok → y.Ok) (hi : x.mu.current = some i) (hm : x.Met x.mu.susp)
    (hs : x.su.phase = .idle ∨ ¬ x.Met x.su.susp)
    (he : ∀ s, (x.on s).Runs .mu i → exec i (x.on s) = .next (y.on s)) : Leads x y := by
  have hp : x.mu.phase ≠ .idle := fun h => by rw [x.mu.current_eq_none.mpr h] at hi; cases hi
  refine move hok (v := .mu) ⟨hp, hm⟩ (fun u hu => ?_) (fun _ => hi) he
  match u, hu with
  | .mu, _ => rfl
  | .su 0, ⟨hne, hmet⟩ => exact absurd (hs.resolve_right (not_not.mpr hmet)) hne

/-- By a move of the slave-side unit, `MU` still waiting. -/
theorem slave {i : Instr} (hok : x.Ok → y.Ok) (hi : x.su.current = some i) (hs : x.Met x.su.susp)
    (hm : ¬ x.Met x.mu.susp)
    (he : ∀ s, (x.on s).su[0]? = some x.su → (x.on s).Runs (.su 0) i → exec i (x.on s) = .next (y.on s)) :
    Leads x y := by
  have hp : x.su.phase ≠ .idle := fun h => by rw [x.su.current_eq_none.mpr h] at hi; cases hi
  refine move hok (v := .su 0) ⟨hp, hs⟩ (fun u hu => ?_) (fun _ => hi) fun s => he s rfl
  match u, hu with
  | .mu, ⟨_, hmet⟩ => exact absurd hmet hm
  | .su 0, _ => rfl

/-- Up to the end of `MU`'s `waitfor`, the slave-side unit waiting for something else than the time. -/
theorem waitMaster {t : Nat} (hw : x.mu.susp = .until t) (hle : x.now ≤ t)
    (hs : ∀ n, ¬ { x with now := n }.Met x.su.susp) : Leads x { x with now := t } := by
  refine wait (.inl hw) hle fun n hn v hv => ?_
  match v, hv with
  | .mu, ⟨_, hmet⟩ =>
    have ht : { x with now := n }.Met (.until t) := hw ▸ hmet
    exact hn.ne' ht
  | .su 0, ⟨_, hmet⟩ => exact hs n hmet

/-- Up to the end of the slave-side unit's `waitfor`, `MU` waiting for something else than the time. -/
theorem waitSlave {t : Nat} (hw : x.su.susp = .until t) (hle : x.now ≤ t)
    (hm : ∀ n, ¬ { x with now := n }.Met x.mu.susp) : Leads x { x with now := t } := by
  refine wait (.inr hw) hle fun n hn v hv => ?_
  match v, hv with
  | .mu, ⟨_, hmet⟩ => exact hm n hmet
  | .su 0, ⟨_, hmet⟩ =>
    have ht : { x with now := n }.Met (.until t) := hw ▸ hmet
    exact hn.ne' ht

variable {c : Config} {n : Nat} {A : Option Addr} {D : Option Word} {sv : Bool} {a : Addr} {d : Word} {m : MasterUnit}
  {u : SlaveUnit} {i : Instr} {q : SlavePoint}

section
variable (hv : c.variant = .pin)
include hv

/-! ## The slave side -/

/-- The service ends after `T_SLAVE`: `ack` rises. -/
theorem acknowledge (hi : u.current = some i) (hq : u.phase = .word q) (p : MasterPhase) :
    Leads ⟨c, n, ⟨true, false, A, D⟩, sv, m.goto p (.level .ack true), u.goto .service (.until (n + c.tSlave))⟩
      ⟨c, n + c.tSlave, ⟨true, true, A, D⟩, sv, m.goto p (.level .ack true),
        u.goto .waitRel (.level .ready false)⟩ := by
  refine trans (waitSlave rfl (Nat.le_add_right ..) fun _ => nofun) ?_
  refine slave id ((u.current_goto hq _ _).trans hi) rfl nofun fun s hk h => ?_
  obtain ⟨hrise, -⟩ := slaveAcknowledgeUnderPin _ 0 _ hv hk
  exact hrise i h rfl rfl

/-- The unit sees `ready` 0 and waits `T_ACKREL`. -/
theorem release (hi : u.current = some i) (hq : u.phase = .word q) (p : MasterPhase) :
    Leads ⟨c, n, ⟨false, true, A, D⟩, sv, m.goto p (.level .ack false), u.goto .waitRel (.level .ready false)⟩
      ⟨c, n + c.tAckRel, ⟨false, true, A, D⟩, sv, m.goto p (.level .ack false),
        u.goto .ackRel (.until (n + c.tAckRel))⟩ := by
  refine trans (slave (y := ⟨c, n, ⟨false, true, A, D⟩, sv, m.goto p (.level .ack false),
    u.goto .ackRel (.until (n + c.tAckRel))⟩) id ((u.current_goto hq _ _).trans hi) rfl nofun fun s hk h => ?_)
    (waitSlave rfl (Nat.le_add_right ..) fun _ => nofun)
  obtain ⟨-, hrel, -⟩ := slaveAcknowledgeUnderPin _ 0 _ hv hk
  exact hrel i h (.inr rfl) rfl

/-! ## MW and SR -/

/-- Up to the match: address and data, `T_SETUP`, `ready` 1, the capture. -/
theorem write_match (hm : m.current = some (.mw a d)) (hmp : m.phase = .mw .start) (hmw : m.susp = .none)
    (hu : u.current = some (.sr a)) (hup : u.phase = .word .waitReady) (huw : u.susp = .level .ready true) :
    Leads ⟨c, n, ⟨false, false, A, D⟩, sv, m, u⟩
      ⟨c, n + c.tSetup, ⟨true, false, some a, some d⟩, true, m.goto (.mw .waitAck) (.level .ack true),
        { u with q := d }.goto .service (.until (n + c.tSetup + c.tSlave))⟩ := by
  have hwait : ∀ x : Scene, x.bus.ready = false → ¬ x.Met u.susp := fun x hr => huw ▸ Scene.not_met_ready hr
  refine trans (y := ⟨c, n, ⟨false, false, some a, some d⟩, false, m.goto (.mw .setup) (.until (n + c.tSetup)), u⟩)
    (master id hm (by rw [hmw]; trivial) (.inr (hwait _ rfl)) fun s h => ?_) ?_
  · obtain ⟨hstart, -⟩ := masterWriteUnderPin _ a d hv h
    exact hstart hmp
  refine trans (waitMaster rfl (Nat.le_add_right ..) fun _ => hwait _ rfl) ?_
  refine trans (y := ⟨c, n + c.tSetup, ⟨true, false, some a, some d⟩, false,
    m.goto (.mw .waitAck) (.level .ack true), u⟩)
    (master id (MasterUnit.current_goto_mw hm _ _) rfl (.inr (hwait _ rfl)) fun s h => ?_) ?_
  · obtain ⟨-, hset, -⟩ := masterWriteUnderPin _ a d hv h
    exact hset rfl rfl
  · refine slave id hu (by rw [huw]; rfl) nofun fun s hk h => ?_
    obtain ⟨-, hmatch, -⟩ := slaveMatchUnderPin _ 0 _ hv hk (.inr (.inl hup))
    exact hmatch a d h rfl rfl rfl rfl rfl

/-- Up to the master's sight of `ack`: `T_SLAVE`, `ack` 1, the hold begun. -/
theorem write_acknowledged (hm : m.current = some (.mw a d)) (hi : u.current = some i) (hq : u.phase = .word q) :
    Leads ⟨c, n, ⟨true, false, A, D⟩, sv, m.goto (.mw .waitAck) (.level .ack true),
        u.goto .service (.until (n + c.tSlave))⟩
      ⟨c, n + c.tSlave, ⟨true, true, A, D⟩, sv, m.goto (.mw .hold) (.until (n + c.tSlave + c.tWHold)),
        u.goto .waitRel (.level .ready false)⟩ := by
  refine trans (acknowledge hv hi hq _) ?_
  refine master id (MasterUnit.current_goto_mw hm _ _) rfl (.inr nofun) fun s h => ?_
  obtain ⟨-, -, hack, -⟩ := masterWriteUnderPin _ a d hv h
  exact hack (.inr rfl) rfl

/-- Up to the fall of `ready`, after `T_WHOLD`. -/
theorem write_held (hm : m.current = some (.mw a d)) :
    Leads ⟨c, n, ⟨true, true, A, D⟩, sv, m.goto (.mw .hold) (.until (n + c.tWHold)),
        u.goto .waitRel (.level .ready false)⟩
      ⟨c, n + c.tWHold, ⟨false, true, A, D⟩, sv, m.goto (.mw .waitRel) (.level .ack false),
        u.goto .waitRel (.level .ready false)⟩ := by
  refine trans (waitMaster rfl (Nat.le_add_right ..) fun _ => nofun) ?_
  refine master id (MasterUnit.current_goto_mw hm _ _) rfl (.inr nofun) fun s h => ?_
  obtain ⟨-, -, -, hdrop, -⟩ := masterWriteUnderPin _ a d hv h
  exact hdrop rfl rfl

/-- Up to both completions: `T_ACKREL`, `ack` 0. -/
theorem write_completed (hm : m.current = some (.mw a d)) (hu : u.current = some (.sr a)) (hq : u.phase = .word q) :
    Leads ⟨c, n, ⟨false, true, A, D⟩, sv, m.goto (.mw .waitRel) (.level .ack false),
        u.goto .waitRel (.level .ready false)⟩
      ⟨c, n + c.tAckRel, ⟨false, false, A, D⟩, sv,
        m.doneAt (n + c.tAckRel) .nothing, u.doneAt (n + c.tAckRel) (.word u.q)⟩ := by
  refine trans (release hv hu hq _) ?_
  refine trans (y := ⟨c, n + c.tAckRel, ⟨false, false, A, D⟩, sv, m.goto (.mw .waitRel) (.level .ack false),
      u.doneAt (n + c.tAckRel) (.word u.q)⟩)
    (slave id ((u.current_goto hq _ _).trans hu) rfl nofun fun s hk h => ?_) ?_
  · obtain ⟨-, -, hdone, -⟩ := slaveAcknowledgeUnderPin _ 0 _ hv hk
    exact hdone a h rfl
  · refine master id (MasterUnit.current_goto_mw hm _ _) rfl (.inl rfl) fun s h => ?_
    obtain ⟨-, -, -, -, hdone⟩ := masterWriteUnderPin _ a d hv h
    exact hdone (.inr rfl) rfl

/-! ## MR and SW -/

/-- Up to the match: the address, `T_SETUP`, `ready` 1, the word driven. -/
theorem read_match (hm : m.current = some (.mr a)) (hmp : m.phase = .mr .start) (hmw : m.susp = .none)
    (hu : u.current = some (.sw a d)) (hup : u.phase = .word .waitReady) (huw : u.susp = .level .ready true) :
    Leads ⟨c, n, ⟨false, false, A, D⟩, sv, m, u⟩
      ⟨c, n + c.tSetup, ⟨true, false, some a, some d⟩, true, m.goto (.mr .waitAck) (.level .ack true),
        u.goto .service (.until (n + c.tSetup + c.tSlave))⟩ := by
  have hwait : ∀ x : Scene, x.bus.ready = false → ¬ x.Met u.susp := fun x hr => huw ▸ Scene.not_met_ready hr
  refine trans (y := ⟨c, n, ⟨false, false, some a, D⟩, false, m.goto (.mr .setup) (.until (n + c.tSetup)), u⟩)
    (master id hm (by rw [hmw]; trivial) (.inr (hwait _ rfl)) fun s h => ?_) ?_
  · obtain ⟨hstart, -⟩ := masterReadUnderPin _ a hv h
    exact hstart hmp
  refine trans (waitMaster rfl (Nat.le_add_right ..) fun _ => hwait _ rfl) ?_
  refine trans (y := ⟨c, n + c.tSetup, ⟨true, false, some a, D⟩, false, m.goto (.mr .waitAck) (.level .ack true), u⟩)
    (master id (MasterUnit.current_goto_mr hm _ _) rfl (.inr (hwait _ rfl)) fun s h => ?_) ?_
  · obtain ⟨-, hset, -⟩ := masterReadUnderPin _ a hv h
    exact hset rfl rfl
  · refine slave id hu (by rw [huw]; rfl) nofun fun s hk h => ?_
    obtain ⟨-, -, hmatch⟩ := slaveMatchUnderPin _ 0 _ hv hk (.inr (.inl hup))
    exact hmatch a d h rfl rfl rfl rfl

/-- Up to the master's sight of `ack`: `T_SLAVE`, `ack` 1, the sample and the hold begun. -/
theorem read_acknowledged (hm : m.current = some (.mr a)) (hi : u.current = some i) (hq : u.phase = .word q) :
    Leads ⟨c, n, ⟨true, false, A, some d⟩, sv, m.goto (.mr .waitAck) (.level .ack true),
        u.goto .service (.until (n + c.tSlave))⟩
      ⟨c, n + c.tSlave, ⟨true, true, A, some d⟩, sv,
        { m with q := d }.goto (.mr .hold) (.until (n + c.tSlave + c.tRHold)),
        u.goto .waitRel (.level .ready false)⟩ := by
  refine trans (acknowledge hv hi hq _) ?_
  refine master id (MasterUnit.current_goto_mr hm _ _) rfl (.inr nofun) fun s h => ?_
  obtain ⟨-, -, hack, -⟩ := masterReadUnderPin _ a hv h
  exact hack d (.inr rfl) rfl rfl

/-- Up to the fall of `ready`, after `T_RHOLD`. -/
theorem read_held (hm : m.current = some (.mr a)) :
    Leads ⟨c, n, ⟨true, true, A, D⟩, sv, m.goto (.mr .hold) (.until (n + c.tRHold)),
        u.goto .waitRel (.level .ready false)⟩
      ⟨c, n + c.tRHold, ⟨false, true, A, D⟩, sv, m.goto (.mr .waitRel) (.level .ack false),
        u.goto .waitRel (.level .ready false)⟩ := by
  refine trans (waitMaster rfl (Nat.le_add_right ..) fun _ => nofun) ?_
  refine master id (MasterUnit.current_goto_mr hm _ _) rfl (.inr nofun) fun s h => ?_
  obtain ⟨-, -, -, hdrop, -⟩ := masterReadUnderPin _ a hv h
  exact hdrop rfl rfl

/-- Up to both completions: `T_ACKREL`, `ack` 0. -/
theorem read_completed (hm : m.current = some (.mr a)) (hu : u.current = some (.sw a d)) (hq : u.phase = .word q) :
    Leads ⟨c, n, ⟨false, true, A, D⟩, sv, m.goto (.mr .waitRel) (.level .ack false),
        u.goto .waitRel (.level .ready false)⟩
      ⟨c, n + c.tAckRel, ⟨false, false, A, D⟩, sv, m.doneAt (n + c.tAckRel) (.word m.q),
        u.doneAt (n + c.tAckRel) .nothing⟩ := by
  refine trans (release hv hu hq _) ?_
  refine trans (y := ⟨c, n + c.tAckRel, ⟨false, false, A, D⟩, sv, m.goto (.mr .waitRel) (.level .ack false),
      u.doneAt (n + c.tAckRel) .nothing⟩)
    (slave id ((u.current_goto hq _ _).trans hu) rfl nofun fun s hk h => ?_) ?_
  · obtain ⟨-, -, -, hdone⟩ := slaveAcknowledgeUnderPin _ 0 _ hv hk
    exact hdone a d h rfl
  · refine master id (MasterUnit.current_goto_mr hm _ _) rfl (.inl rfl) fun s h => ?_
    obtain ⟨-, -, -, -, hdone⟩ := masterReadUnderPin _ a hv h
    exact hdone (.inr rfl) rfl

end

/-- Four stages in a row, from a state in which the first scene stands. -/
theorem stages {x x1 x2 x3 x4 : Scene} (h1 : Leads x x1) (h2 : Leads x1 x2) (h3 : Leads x2 x3) (h4 : Leads x3 x4)
    (hx : x.Ok) (hs : s.OthersRest) (he : x.on s = s) :
    ∃ t1 t2 t3 t4 : State, s.Reaches (x1.on t1) ∧ (x1.on t1).Reaches (x2.on t2) ∧ (x2.on t2).Reaches (x3.on t3) ∧
      (x3.on t3).Reaches (x4.on t4) ∧
      (x4.mu.phase = .idle → x4.su.phase = .idle → (x4.on t4).moves = []) := by
  obtain ⟨hx1, h1⟩ := h1 hx
  obtain ⟨hx2, h2⟩ := h2 hx1
  obtain ⟨hx3, h3⟩ := h3 hx2
  obtain ⟨hx4, h4⟩ := h4 hx3
  obtain ⟨t1, hs1, hr1⟩ := h1 s hs
  obtain ⟨t2, hs2, hr2⟩ := h2 t1 hs1
  obtain ⟨t3, hs3, hr3⟩ := h3 t2 hs2
  obtain ⟨t4, hs4, hr4⟩ := h4 t3 hs3
  exact ⟨t1, t2, t3, t4, he ▸ hr1, hr2, hr3, hr4, Scene.moves_eq_nil hx4 hs4⟩

end Leads

/-- A state with one slave-side unit and both handshake lines 0 is a scene on itself. -/
theorem Scene.on_self {u : SlaveUnit} (hsu : s.su = [u]) (hr : s.bus.ready = false) (ha : s.bus.ack = false) :
    Scene.on ⟨s.cfg, s.now, ⟨false, false, s.bus.address, s.bus.data⟩, s.served, s.mu, u⟩ s = s := by
  have hb : (⟨false, false, s.bus.address, s.bus.data⟩ : BusSignals) = s.bus := by
    cases h : s.bus; simp_all
  simp only [Scene.on, hb, ← hsu]

/-- Settles O58: the four stages of the write. -/
theorem timelineOfAWrite : Obligations.TimelineOfAWrite := by
  intro s a d u hl hv hm hmp hmw hmt hsu hu hup huw hut hr ha his hrcv
  obtain ⟨t1, t2, t3, t4, h1, h2, h3, h4, hend⟩ := Leads.stages (.write_match hv hm hmp hmw hu hup huw)
    (.write_acknowledged hv hm hu hup) (.write_held hv hm) (.write_completed hv hm hu hup) ⟨hl, hmt, hut⟩ ⟨his, hrcv⟩
    (Scene.on_self hsu hr ha)
  exact ⟨_, _, _, _, h1, h2, h3, h4, ⟨rfl, rfl, rfl⟩, ⟨rfl, rfl⟩, ⟨rfl, rfl⟩, rfl, rfl, rfl, rfl, hend rfl rfl⟩

/-- Settles O59: the four stages of the read. -/
theorem timelineOfARead : Obligations.TimelineOfARead := by
  intro s a d u hl hv hm hmp hmw hmt hsu hu hup huw hut hr ha his hrcv
  obtain ⟨t1, t2, t3, t4, h1, h2, h3, h4, hend⟩ := Leads.stages (.read_match hv hm hmp hmw hu hup huw)
    (.read_acknowledged hv hm hu hup) (.read_held hv hm) (.read_completed hv hm hu hup) ⟨hl, hmt, hut⟩ ⟨his, hrcv⟩
    (Scene.on_self hsu hr ha)
  exact ⟨_, _, _, _, h1, h2, h3, h4, ⟨rfl, rfl⟩, ⟨rfl, rfl, rfl⟩, ⟨rfl, rfl⟩, rfl, rfl, rfl, rfl, hend rfl rfl⟩

end Sys2Proof.Machine
end

section
/-! The segments of the transaction-level handshake (42_handshake_txn.md R111 to R115): each is the segment of the place
where the unit stands. A notice rewrites the suspensions only, so it may be sent before or after the unit's own write. -/

namespace Sys2Proof.Machine

/-! ## `MU` -/

/-- Settles O28: the segment of MW at each of its points under TXN. -/
theorem masterWriteUnderTxn : Obligations.MasterWriteUnderTxn := by
  intro s a d hv h
  have hrun : ∀ p, s.mu.phase = .mw p → exec (.mw a d) s =
      mwSegment (completeMaster .nothing) p (s.withMu { s.mu with susp := .none }) := fun p => execMw_run h
  obtain ⟨-, hc, -⟩ := h
  obtain ⟨-, hlop, rfl, rfl⟩ := MasterUnit.current_mw hc
  refine ⟨fun hp => ?_, fun hp => ?_, fun hp => ?_, fun hp => ?_⟩
  · rw [hrun _ hp]
    exact congrArg Host.Outcome.next (mwBegin_txn hv)
  · rw [hrun _ hp]
    rfl
  · rw [hrun _ hp]
    rfl
  · rw [hrun _ hp]
    exact completeMaster_next.mpr (by rw [← hlop]; rfl)

/-- Settles O29: the segment of MR at each of its points under TXN. -/
theorem masterReadUnderTxn : Obligations.MasterReadUnderTxn := by
  intro s a hv h
  have hrun : ∀ p, s.mu.phase = .mr p → exec (.mr a) s =
      mrSegment (fun t => completeMaster (.word t.mu.q) t) p (s.withMu { s.mu with susp := .none }) :=
    fun p => execMr_run h
  obtain ⟨-, hc, -⟩ := h
  obtain ⟨-, hlop, rfl⟩ := MasterUnit.current_mr hc
  refine ⟨fun hp => ?_, fun hp => ?_, fun w hp hw => ?_, fun hp => ?_⟩
  · rw [hrun _ hp]
    exact congrArg Host.Outcome.next (mrBegin_txn hv)
  · rw [hrun _ hp]
    rfl
  · rw [hrun _ hp]
    exact mrSample_next.mpr ⟨w, hw, rfl⟩
  · rw [hrun _ hp]
    exact completeMaster_next.mpr (by rw [← hlop]; rfl)

/-! ## `SU[k]` -/

/-- What a unit writes of itself before it sends a notice is lost in what it writes of itself after it. -/
theorem State.withSu_notify_withSu (s : State) (k : Nat) (e : Notice) (u v : SlaveUnit) :
    ((s.withSu k u).notify e).withSu k v = (s.notify e).withSu k v := by
  simp [State.withSu, State.notify, State.wake, List.map_set]

/-- Settles O30: the wait and the mismatch, the match in either direction, the service, and the completions of SR and
SW with the notice. -/
theorem slaveUnderTxn : Obligations.SlaveUnderTxn := by
  refine fun s k u hv hk => ⟨fun i h hp => ?_, fun a w h hp ht hs hm => ?_, fun a d h hp ha hs hm => ?_,
    fun i h hp => ?_, fun a h hp => ?_, fun a d h hp => ?_⟩
  · rcases hp with hp | ⟨hp, x, hx, hne⟩
    · obtain ⟨ret, he⟩ := exec_slaveSegment hk hp h
      exact he.trans (slaveBegin_next.mpr (.inr ⟨hv, State.withSu_suSuspend ..⟩))
    · obtain ⟨ret, he⟩ := exec_slaveSegment hk hp h
      exact he.trans (testTxn_next.mpr ⟨x, hx, .inr ⟨hne, State.withSu_suSuspend ..⟩⟩)
  · obtain ⟨-, -, hdir, rfl⟩ := SlaveUnit.current_sr (h.su_current hk)
    refine (execSr_run hk hp h).trans (testTxn_next.mpr ⟨_, by rw [State.withSu_txn, ht], .inl ⟨rfl, serveTxn_next.mpr
      ⟨hs, .inl (hm.trans (congrArg some hdir.symm)), .inl ⟨hdir, w, by rw [State.withSu_txn, ht], ?_⟩⟩⟩⟩)
    exact State.withSu_suWaitfor (s.markServed true) ..
  · obtain ⟨-, -, hdir, rfl, rfl⟩ := SlaveUnit.current_sw (h.su_current hk)
    refine (execSw_run hk hp h).trans (testTxn_next.mpr ⟨_, ha, .inl ⟨rfl, serveTxn_next.mpr
      ⟨hs, .inl (hm.trans (congrArg some hdir.symm)), .inr ⟨hdir, ?_⟩⟩⟩⟩)
    rw [← ha]
    exact State.withSu_suWaitfor ((s.markServed true).drivePendingData u.d) ..
  · obtain ⟨ret, he⟩ := exec_slaveSegment hk hp h
    exact he.trans (congrArg Host.Outcome.next (State.withSu_suWaitfor ..))
  · obtain ⟨-, hlop, -⟩ := SlaveUnit.current_sr (h.su_current hk)
    refine (execSr_run hk hp h).trans (completeSlave_next.mpr ?_)
    rw [← hlop]
    exact s.withSu_notify_withSu k _ _ _
  · obtain ⟨-, hlop, -⟩ := SlaveUnit.current_sw (h.su_current hk)
    refine (execSw_run hk hp h).trans (completeSlave_next.mpr ?_)
    rw [← hlop]
    exact s.withSu_notify_withSu k _ _ _

end Sys2Proof.Machine
end

section
/-! The two timelines under TXN (42_handshake_txn.md R116). A `Scene` does not hold the cells, on which a run turns here,
so one scene leads to another with the cells given beside it (`TxnLeads`). At every place of the run one unit awaits a
notice or is idle and the other is due at a time of its own, so each part of it is that the time passes up to there and
the due unit moves. -/

namespace Sys2Proof.Machine

variable {x y z : Scene} {s : State} {c c' c'' : TxnCells}

/-- `w` lets its unit run at time `t` and not before: it is none and `t` is now, or it is a `waitfor` up to `t`. -/
inductive Susp.EndsAt : (w : Susp) → (now t : Nat) → Prop
  | now (n : Nat) : EndsAt .none n n
  | waitfor {n t : Nat} (h : n ≤ t) : EndsAt (.until t) n t

/-! ## One scene leads to another, with the cells -/

/-- The interrupt units rest, and the cells hold `c`. -/
def State.RestsWith (c : TxnCells) (s : State) : Prop := s.OthersRest ∧ s.txn = c

/-- A notice reaches the resting units' suspensions only. -/
theorem State.RestsWith.notify (h : s.RestsWith c) (e : Notice) : (s.notify e).RestsWith c := by
  obtain ⟨⟨hsnd, hrcv⟩, hc⟩ := h
  refine ⟨⟨hsnd, fun r hr => ?_⟩, hc⟩
  obtain ⟨v, hv, rfl⟩ := List.mem_map.mp hr
  exact hrcv v hv

theorem State.RestsWith.drive (h : s.RestsWith c) (c' : TxnCells) : { s with txn := c' }.RestsWith c' := by
  obtain ⟨hrest, -⟩ := h
  exact ⟨hrest, rfl⟩

/-- From the first scene and cells the machine gets to the second, whatever the rest of the state. -/
def TxnLeads (x : Scene) (c : TxnCells) (y : Scene) (c' : TxnCells) : Prop :=
  x.Ok → y.Ok ∧ ∀ s : State, s.RestsWith c → ∃ t : State, t.RestsWith c' ∧ (x.on s).Reaches (y.on t)

/-- ADVANCE, while no unit of the scene can move and one of them is in a `waitfor`: not past its end. -/
theorem Scene.step_advance {t : Nat} (hx : x.Ok) (hs : s.OthersRest) (hm : ∀ v, ¬ x.Moves v)
    (hw : x.mu.susp = .until t ∨ x.su.susp = .until t) (hlt : x.now < t) :
    ∃ n, x.now < n ∧ n ≤ t ∧ step (x.on s) = .next ({ x with now := n }.on ((x.on s).advance n)) := by
  have hquiet : (x.on s).moves = [] :=
    List.eq_nil_iff_forall_not_mem.mpr fun v hv => hm v ((Scene.mem_moves_iff hx hs).mp hv)
  have hmem : t ∈ (x.on s).eventTimes := by
    rcases hw with hw | hw
    · exact State.mem_eventTimes (u := .mu) (congrArg some hw)
    · exact State.mem_eventTimes (u := .su 0) (congrArg some hw)
  obtain ⟨n, hn⟩ : ∃ n, (x.on s).nextTime = some n :=
    Option.ne_none_iff_exists'.mp fun h => absurd (leastAbove_none.mp h t hmem) (Nat.not_le.mpr hlt)
  obtain ⟨-, hxn, hleast⟩ := leastAbove_some hn
  obtain ⟨hl, -⟩ := hx
  exact ⟨n, hxn, hleast t hmem hlt, step_next.mpr ⟨hl, .inr ⟨State.choose_none.mpr hquiet, n, hn, rfl⟩⟩⟩

namespace TxnLeads

theorem trans (h : TxnLeads x c y c') (h' : TxnLeads y c' z c'') : TxnLeads x c z c'' := by
  intro hx
  obtain ⟨hy, hxy⟩ := h hx
  obtain ⟨hz, hyz⟩ := h' hy
  refine ⟨hz, fun s hs => ?_⟩
  obtain ⟨t, ht, hst⟩ := hxy s hs
  obtain ⟨r, hr, htr⟩ := hyz t ht
  exact ⟨r, hr, hst.trans htr⟩

/-- By the time passing up to the end of a `waitfor`, no unit being able to move before. -/
theorem wait {t : Nat} (hw : x.mu.susp = .until t ∨ x.su.susp = .until t) (hle : x.now ≤ t)
    (hq : ∀ n, n < t → ∀ v, ¬ { x with now := n }.Moves v) : TxnLeads x c { x with now := t } c := by
  refine fun hx => ⟨hx, fun s hs => ?_⟩
  induction hd : t - x.now using Nat.strong_induction_on generalizing x s with
  | _ d ih =>
    obtain rfl | hlt := Nat.eq_or_lt_of_le hle
    · exact ⟨s, hs, .refl _⟩
    · obtain ⟨hrest, hcells⟩ := hs
      obtain ⟨n, hxn, hnt, hstep⟩ := Scene.step_advance hx hrest (hq _ hlt) hw hlt
      obtain ⟨r, hr, hreach⟩ := ih (t - n) (by omega) (x := { x with now := n }) hw hnt hq hx _
        ⟨State.OthersRest.advance (s := x.on s) hrest n, hcells⟩ rfl
      exact ⟨r, hr, (State.Reaches.of_step hstep).trans hreach⟩

/-- By the move of the only unit that can move. -/
theorem move {v : UnitId} {i : Instr} (hok : x.Ok → y.Ok) (hv : x.Moves v) (ho : ∀ u, x.Moves u → u = v)
    (hi : ∀ s, (x.on s).current v = some i)
    (he : ∀ s, s.RestsWith c → (x.on s).Runs v i → ∃ t : State, t.RestsWith c' ∧ exec i (x.on s) = .next (y.on t)) :
    TxnLeads x c y c' := by
  refine fun hx => ⟨hok hx, fun s hs => ?_⟩
  obtain ⟨hrest, -⟩ := id hs
  obtain ⟨hl, -⟩ := id hx
  obtain ⟨ag, tk, hc⟩ := State.choose_only ((Scene.mem_moves_iff hx hrest).mpr hv)
    fun u hu => ho u ((Scene.mem_moves_iff hx hrest).mp hu)
  obtain ⟨hstep, -⟩ := stepRunsTheDecodedOperation _ _ v hl hc
  let r : State := { s with sel := v, agenda := ag, tick := tk }
  have hen : (x.on r).enabled v = true := by
    match v, hv with
    | .mu, hv => exact Scene.enabled_mu.mpr hv
    | .su 0, hv => exact Scene.enabled_su.mpr hv
  obtain ⟨t, ht, hexec⟩ := he r hs ⟨rfl, hi r, hen⟩
  exact ⟨t, ht, .of_step ((hstep i (hi _)).trans hexec)⟩

/-! ## The unit that is due moves -/

/-- `w`, the suspension of `v`, ends at `t`, at once or as a `waitfor`; nobody else can move before `v` does. -/
theorem due {v : UnitId} {i : Instr} {w : Susp} {t : Nat} (hok : x.Ok → y.Ok) (hd : w.EndsAt x.now t)
    (hw : x.mu.susp = w ∨ x.su.susp = w)
    (hm : ∀ n u, { x with now := n }.Moves u ↔ u = v ∧ { x with now := n }.Met w)
    (hi : ∀ s, ({ x with now := t }.on s).current v = some i)
    (he : ∀ s, s.RestsWith c → ({ x with now := t }.on s).Runs v i →
      ∃ r : State, r.RestsWith c' ∧ exec i ({ x with now := t }.on s) = .next (y.on r)) : TxnLeads x c y c' := by
  have hmove : { x with now := t }.Met w → TxnLeads { x with now := t } c y c' := fun hmet =>
    move hok ((hm t v).mpr ⟨rfl, hmet⟩) (fun u hu => ((hm t u).mp hu).1) hi he
  cases hd with
  | now => exact hmove trivial
  | waitfor hle =>
    refine trans (wait hw hle fun n hn u hu => ?_) (hmove rfl)
    obtain ⟨-, hmet⟩ := (hm n u).mp hu
    exact hn.ne' hmet

/-- `MU` is due, the slave-side unit being idle or awaiting a notice. -/
theorem master {i : Instr} {t : Nat} (hok : x.Ok → y.Ok) (hi : x.mu.current = some i) (hd : x.mu.susp.EndsAt x.now t)
    (hs : x.su.phase = .idle ∨ x.su.susp = .notice .readyNotice)
    (he : ∀ s, s.RestsWith c → ({ x with now := t }.on s).Runs .mu i →
      ∃ r : State, r.RestsWith c' ∧ exec i ({ x with now := t }.on s) = .next (y.on r)) : TxnLeads x c y c' := by
  have hp : x.mu.phase ≠ .idle := fun h => by rw [x.mu.current_eq_none.mpr h] at hi; cases hi
  refine due (v := .mu) hok hd (.inl rfl) (fun n u => ⟨fun hu => ?_, fun ⟨hv, hmet⟩ => hv ▸ ⟨hp, hmet⟩⟩) (fun _ => hi) he
  match u, hu with
  | .mu, ⟨_, hmet⟩ => exact ⟨rfl, hmet⟩
  | .su 0, ⟨hne, hmet⟩ =>
    have hmet : { x with now := n }.Met (.notice .readyNotice) := hs.resolve_left hne ▸ hmet
    exact hmet.elim

/-- The slave-side unit is due, `MU` awaiting a notice. -/
theorem slave {i : Instr} {t : Nat} (hok : x.Ok → y.Ok) (hi : x.su.current = some i) (hd : x.su.susp.EndsAt x.now t)
    (hm : x.mu.susp = .notice .ackNotice)
    (he : ∀ s, s.RestsWith c → ({ x with now := t }.on s).su[0]? = some x.su → ({ x with now := t }.on s).Runs (.su 0) i →
      ∃ r : State, r.RestsWith c' ∧ exec i ({ x with now := t }.on s) = .next (y.on r)) : TxnLeads x c y c' := by
  have hp : x.su.phase ≠ .idle := fun h => by rw [x.su.current_eq_none.mpr h] at hi; cases hi
  refine due (v := .su 0) hok hd (.inr rfl) (fun n u => ⟨fun hu => ?_, fun ⟨hv, hmet⟩ => hv ▸ ⟨hp, hmet⟩⟩) (fun _ => hi)
    fun s hs => he s hs rfl
  match u, hu with
  | .mu, ⟨_, hmet⟩ =>
    have hmet : { x with now := n }.Met (.notice .ackNotice) := hm ▸ hmet
    exact hmet.elim
  | .su 0, ⟨_, hmet⟩ => exact ⟨rfl, hmet⟩

variable {g : Config} {n : Nat} {B : BusSignals} {sv : Bool} {a : Addr} {d : Word} {m : MasterUnit} {u : SlaveUnit}
  {i : Instr} {q : SlavePoint}

section
variable (hv : g.variant = .txn)
include hv

/-- The service, after `T_SLAVE`, whichever the direction. -/
theorem service (hi : u.current = some i) (hq : u.phase = .word q) (p : MasterPhase) :
    TxnLeads ⟨g, n, B, sv, m.goto p (.notice .ackNotice), u.goto .txnService (.until (n + g.tSlave))⟩ c
      ⟨g, n + g.tSlave, B, sv, m.goto p (.notice .ackNotice),
        u.goto .txnAckRel (.until (n + g.tSlave + g.tAckRel))⟩ c := by
  refine slave id ((u.current_goto hq _ _).trans hi) (.waitfor (Nat.le_add_right ..)) rfl fun s hs hk h => ?_
  obtain ⟨-, -, -, hserved, -⟩ := slaveUnderTxn _ 0 _ hv hk
  exact ⟨s, hs, hserved i h rfl⟩

/-! ## MW and SR -/

/-- Up to the match: the cells, `T_SETUP`, `readyNotice`, the capture. -/
theorem write_match (hm : m.current = some (.mw a d)) (hmp : m.phase = .mw .start) (hmw : m.susp = .none)
    (hu : u.current = some (.sr a)) (hq : u.phase = .word q) :
    TxnLeads ⟨g, n, B, sv, m, u.goto .txnWaitReady (.notice .readyNotice)⟩ c
      ⟨g, n + g.tSetup, B, true, m.goto (.mw .txnWaitAck) (.notice .ackNotice),
        { u with q := d }.goto .txnService (.until (n + g.tSetup + g.tSlave))⟩ ⟨some a, some d⟩ := by
  refine trans (y := ⟨g, n, B, false, m.goto (.mw .txnSetup) (.until (n + g.tSetup)),
      u.goto .txnWaitReady (.notice .readyNotice)⟩) (c' := ⟨some a, some d⟩)
    (master (t := n) id hm (by rw [hmw]; exact .now n) (.inr rfl) fun s hs h => ?_) ?_
  · obtain ⟨hstart, -⟩ := masterWriteUnderTxn _ a d hv h
    exact ⟨_, hs.drive _, hstart hmp⟩
  refine trans (y := ⟨g, n + g.tSetup, B, false, m.goto (.mw .txnWaitAck) (.notice .ackNotice),
      u.goto .txnWaitReady .none⟩) (c' := ⟨some a, some d⟩)
    (master id (MasterUnit.current_goto_mw hm _ _) (.waitfor (Nat.le_add_right ..)) (.inr rfl) fun s hs h => ?_) ?_
  · obtain ⟨-, hset, -⟩ := masterWriteUnderTxn _ a d hv h
    exact ⟨_, hs.notify .readyNotice, hset rfl⟩
  · refine slave id ((u.current_goto hq _ _).trans hu) (.now _) rfl fun s hs hk h => ?_
    obtain ⟨-, hmatch, -⟩ := slaveUnderTxn _ 0 _ hv hk
    obtain ⟨-, hcells⟩ := id hs
    exact ⟨s, hs, hmatch a d h rfl hcells rfl rfl⟩

/-- Up to the completion of SR and the master's sight of it: `T_SLAVE`, `T_ACKREL`, `ackNotice`, the hold begun. -/
theorem write_released (hm : m.current = some (.mw a d)) (hu : u.current = some (.sr a)) (hq : u.phase = .word q) :
    TxnLeads ⟨g, n, B, sv, m.goto (.mw .txnWaitAck) (.notice .ackNotice), u.goto .txnService (.until (n + g.tSlave))⟩ c
      ⟨g, n + g.tSlave + g.tAckRel, B, sv,
        m.goto (.mw .txnHold) (.until (n + g.tSlave + g.tAckRel + g.tWHold)),
        u.doneAt (n + g.tSlave + g.tAckRel) (.word u.q)⟩ c := by
  refine trans (service hv hu hq _) ?_
  refine trans (y := ⟨g, n + g.tSlave + g.tAckRel, B, sv, m.goto (.mw .txnWaitAck) .none,
      u.doneAt (n + g.tSlave + g.tAckRel) (.word u.q)⟩) (c' := c)
    (slave id ((u.current_goto hq _ _).trans hu) (.waitfor (Nat.le_add_right ..)) rfl fun s hs hk h => ?_) ?_
  · obtain ⟨-, -, -, -, hdone, -⟩ := slaveUnderTxn _ 0 _ hv hk
    exact ⟨_, hs.notify .ackNotice, hdone a h rfl⟩
  · refine master id (MasterUnit.current_goto_mw hm _ _) (.now _) (.inl rfl) fun s hs h => ?_
    obtain ⟨-, -, hack, -⟩ := masterWriteUnderTxn _ a d hv h
    exact ⟨s, hs, hack rfl⟩

/-- Up to the completion of MW, after `T_WHOLD`. -/
theorem write_held (hm : m.current = some (.mw a d)) (hu : u.phase = .idle) :
    TxnLeads ⟨g, n, B, sv, m.goto (.mw .txnHold) (.until (n + g.tWHold)), u⟩ c
      ⟨g, n + g.tWHold, B, sv, m.doneAt (n + g.tWHold) .nothing, u⟩ c := by
  refine master id (MasterUnit.current_goto_mw hm _ _) (.waitfor (Nat.le_add_right ..)) (.inl hu) fun s hs h => ?_
  obtain ⟨-, -, -, hdone⟩ := masterWriteUnderTxn _ a d hv h
  exact ⟨s, hs, hdone rfl⟩

/-! ## MR and SW -/

/-- Up to the match: the address cell, `T_SETUP`, `readyNotice`, the word driven. -/
theorem read_match (hm : m.current = some (.mr a)) (hmp : m.phase = .mr .start) (hmw : m.susp = .none)
    (hu : u.current = some (.sw a d)) (hq : u.phase = .word q) :
    TxnLeads ⟨g, n, B, sv, m, u.goto .txnWaitReady (.notice .readyNotice)⟩ c
      ⟨g, n + g.tSetup, B, true, m.goto (.mr .txnWaitAck) (.notice .ackNotice),
        u.goto .txnService (.until (n + g.tSetup + g.tSlave))⟩ ⟨some a, some d⟩ := by
  refine trans (y := ⟨g, n, B, false, m.goto (.mr .txnSetup) (.until (n + g.tSetup)),
      u.goto .txnWaitReady (.notice .readyNotice)⟩) (c' := ⟨some a, c.pendingData⟩)
    (master (t := n) id hm (by rw [hmw]; exact .now n) (.inr rfl) fun s hs h => ?_) ?_
  · obtain ⟨hstart, -⟩ := masterReadUnderTxn _ a hv h
    obtain ⟨-, rfl⟩ := id hs
    exact ⟨_, hs.drive _, hstart hmp⟩
  refine trans (y := ⟨g, n + g.tSetup, B, false, m.goto (.mr .txnWaitAck) (.notice .ackNotice),
      u.goto .txnWaitReady .none⟩) (c' := ⟨some a, c.pendingData⟩)
    (master id (MasterUnit.current_goto_mr hm _ _) (.waitfor (Nat.le_add_right ..)) (.inr rfl) fun s hs h => ?_) ?_
  · obtain ⟨-, hset, -⟩ := masterReadUnderTxn _ a hv h
    exact ⟨_, hs.notify .readyNotice, hset rfl⟩
  · refine slave id ((u.current_goto hq _ _).trans hu) (.now _) rfl fun s hs hk h => ?_
    obtain ⟨-, -, hmatch, -⟩ := slaveUnderTxn _ 0 _ hv hk
    obtain ⟨-, hcells⟩ := id hs
    exact ⟨_, hs.drive _, hmatch a d h rfl (congrArg TxnCells.pendingAddress hcells) rfl rfl⟩

/-- Up to the completion of SW and the master's sample at it: `T_SLAVE`, `T_ACKREL`, `ackNotice`, the hold begun. -/
theorem read_released (hm : m.current = some (.mr a)) (hu : u.current = some (.sw a d)) (hq : u.phase = .word q)
    (hc : c.pendingData = some d) :
    TxnLeads ⟨g, n, B, sv, m.goto (.mr .txnWaitAck) (.notice .ackNotice), u.goto .txnService (.until (n + g.tSlave))⟩ c
      ⟨g, n + g.tSlave + g.tAckRel, B, sv,
        { m with q := d }.goto (.mr .txnHold) (.until (n + g.tSlave + g.tAckRel + g.tRHold)),
        u.doneAt (n + g.tSlave + g.tAckRel) .nothing⟩ c := by
  refine trans (service hv hu hq _) ?_
  refine trans (y := ⟨g, n + g.tSlave + g.tAckRel, B, sv, m.goto (.mr .txnWaitAck) .none,
      u.doneAt (n + g.tSlave + g.tAckRel) .nothing⟩) (c' := c)
    (slave id ((u.current_goto hq _ _).trans hu) (.waitfor (Nat.le_add_right ..)) rfl fun s hs hk h => ?_) ?_
  · obtain ⟨-, -, -, -, -, hdone⟩ := slaveUnderTxn _ 0 _ hv hk
    exact ⟨_, hs.notify .ackNotice, hdone a d h rfl⟩
  · refine master id (MasterUnit.current_goto_mr hm _ _) (.now _) (.inl rfl) fun s hs h => ?_
    obtain ⟨-, -, hack, -⟩ := masterReadUnderTxn _ a hv h
    obtain ⟨-, hcells⟩ := id hs
    exact ⟨s, hs, hack d rfl ((congrArg TxnCells.pendingData hcells).trans hc)⟩

/-- Up to the completion of MR, after `T_RHOLD`. -/
theorem read_held (hm : m.current = some (.mr a)) (hu : u.phase = .idle) :
    TxnLeads ⟨g, n, B, sv, m.goto (.mr .txnHold) (.until (n + g.tRHold)), u⟩ c
      ⟨g, n + g.tRHold, B, sv, m.doneAt (n + g.tRHold) (.word m.q), u⟩ c := by
  refine master id (MasterUnit.current_goto_mr hm _ _) (.waitfor (Nat.le_add_right ..)) (.inl hu) fun s hs h => ?_
  obtain ⟨-, -, -, hdone⟩ := masterReadUnderTxn _ a hv h
  exact ⟨s, hs, hdone rfl⟩

end

/-- Three stages in a row, from a state in which the first scene stands. -/
theorem stages {x x1 x2 x3 : Scene} {c c1 c2 c3 : TxnCells} (h1 : TxnLeads x c x1 c1) (h2 : TxnLeads x1 c1 x2 c2)
    (h3 : TxnLeads x2 c2 x3 c3) (hx : x.Ok) (hs : s.RestsWith c) (he : x.on s = s) :
    ∃ t1 t2 t3 : State, s.Reaches (x1.on t1) ∧ (x1.on t1).Reaches (x2.on t2) ∧ (x2.on t2).Reaches (x3.on t3) ∧
      t1.txn = c1 ∧ (x3.mu.phase = .idle → x3.su.phase = .idle → (x3.on t3).moves = []) := by
  obtain ⟨hx1, h1⟩ := h1 hx
  obtain ⟨hx2, h2⟩ := h2 hx1
  obtain ⟨hx3, h3⟩ := h3 hx2
  obtain ⟨t1, hs1, hr1⟩ := h1 s hs
  obtain ⟨t2, hs2, hr2⟩ := h2 t1 hs1
  obtain ⟨t3, ⟨hs3, -⟩, hr3⟩ := h3 t2 hs2
  obtain ⟨-, hc1⟩ := hs1
  exact ⟨t1, t2, t3, he ▸ hr1, hr2, hr3, hc1, Scene.moves_eq_nil hx3 hs3⟩

end TxnLeads

theorem SlaveUnit.goto_self {u : SlaveUnit} {p : SlavePoint} {w : Susp} (hp : u.phase = .word p) (hw : u.susp = w) :
    u.goto p w = u := by
  subst hw
  simp only [SlaveUnit.goto, ← hp]

/-- A state with one slave-side unit is a scene on itself. -/
theorem Scene.on_same {u : SlaveUnit} (hsu : s.su = [u]) : Scene.on ⟨s.cfg, s.now, s.bus, s.served, s.mu, u⟩ s = s := by
  simp only [Scene.on, ← hsu]

/-- Settles O60: the three stages of the write and of the read. -/
theorem timelinesUnderTxn : Obligations.TimelinesUnderTxn := by
  intro s a d u hl hv hmw hmt hsu hup huw hut his hrcv
  have he := Scene.on_same hsu
  rw [← SlaveUnit.goto_self hup huw] at he
  refine ⟨fun hm hmp hu => ?_, fun hm hmp hu => ?_⟩
  · obtain ⟨t1, t2, t3, h1, h2, h3, hc, hend⟩ := TxnLeads.stages (.write_match hv hm hmp hmw hu hup)
      (.write_released hv hm hu hup) (.write_held hv hm rfl) ⟨hl, hmt, hut⟩ ⟨⟨his, hrcv⟩, rfl⟩ he
    exact ⟨_, _, _, h1, h2, h3, ⟨rfl, hc, rfl⟩, ⟨rfl, rfl⟩, rfl, rfl, hend rfl rfl⟩
  · obtain ⟨t1, t2, t3, h1, h2, h3, hc, hend⟩ := TxnLeads.stages (.read_match hv hm hmp hmw hu hup)
      (.read_released hv hm hu hup rfl) (.read_held hv hm rfl) ⟨hl, hmt, hut⟩ ⟨⟨his, hrcv⟩, rfl⟩ he
    exact ⟨_, _, _, h1, h2, h3, ⟨rfl, hc⟩, ⟨rfl, rfl, rfl⟩, rfl, rfl, hend rfl rfl⟩

end Sys2Proof.Machine
end

section
/-! The loops of the media access layer (43_media_access.md R122 to R130; 20_memory.md R42): byte by byte what they put into
the words of the calls and into the buffer, how many calls they make, and what they leave of the link registers. -/

namespace Sys2Proof.Machine

variable {dw : DataWidth}

/-! ## The bytes of a word -/

theorem dataBits_eq (dw : DataWidth) : dw.bits = 8 * dw.bytes := by
  cases dw <;> rfl

theorem dataBytes_le (dw : DataWidth) : dw.bytes ≤ 4 := by
  cases dw <;> decide

theorem wordByte_truncWord (w : Word) {k : Nat} (hk : k < dw.bytes) :
    wordByte dw (truncWord dw w) k = wordByte dw w k := by
  have hB := dataBytes_le dw
  refine BitVec.eq_of_getLsbD_eq fun m hm => ?_
  have hb : 8 * (dw.bytes - 1 - k) + m < 8 * dw.bytes := by omega
  have hw : 8 * (dw.bytes - 1 - k) + m < 32 := by omega
  simp [wordByte, truncWord, dataBits_eq, hm, hb, hw]

/-- A word shifted by `c` bytes: its byte `c` comes first, and the bytes that come in are 0. -/
theorem wordByte_shiftLeft (w : Word) (c : Nat) {k : Nat} (hk : k < dw.bytes) :
    wordByte dw (w <<< (8 * c)) k = if k + c < dw.bytes then wordByte dw w (k + c) else 0 := by
  have hB := dataBytes_le dw
  refine BitVec.eq_of_getLsbD_eq fun m hm => ?_
  have hw : 8 * (dw.bytes - 1 - k) + m < 32 := by omega
  split
  case isTrue hc =>
    have hge : ¬ 8 * (dw.bytes - 1 - k) + m < 8 * c := by omega
    have he : 8 * (dw.bytes - 1 - k) + m - 8 * c = 8 * (dw.bytes - 1 - (k + c)) + m := by omega
    simp only [wordByte, BitVec.getLsbD_extractLsb', BitVec.getLsbD_shiftLeft, hw, hge, he, decide_true, decide_false,
      Bool.not_false, Bool.true_and, hm]
  case isFalse hc =>
    have hlt : 8 * (dw.bytes - 1 - k) + m < 8 * c := by omega
    simp [wordByte, hlt]

theorem wordByte_or (v w : Word) (k : Nat) : wordByte dw (v ||| w) k = wordByte dw v k ||| wordByte dw w k :=
  BitVec.extractLsb'_or

/-- A byte widened to a word is the word's last byte. -/
theorem wordByte_setWidth (b : Byte) {k : Nat} (hk : k < dw.bytes) :
    wordByte dw (b.setWidth 32) k = if k + 1 < dw.bytes then 0 else b := by
  refine BitVec.eq_of_getLsbD_eq fun m hm => ?_
  split
  case isTrue hc =>
    simp only [wordByte, BitVec.getLsbD_extractLsb', BitVec.getLsbD_setWidth]
    simp [BitVec.getLsbD_of_ge b _ (show 8 ≤ 8 * (dw.bytes - 1 - k) + m by omega)]
  case isFalse hc =>
    obtain h0 : dw.bytes - 1 - k = 0 := by omega
    simp [wordByte, h0, hm, show m < 32 by omega]

@[simp] theorem wordByte_zero (k : Nat) : wordByte dw 0 k = 0 := by
  simp [wordByte]

theorem wordByte_shiftIn (w : Word) (b : Byte) {k : Nat} (hk : k < dw.bytes) :
    wordByte dw (shiftIn dw w b) k = if k + 1 < dw.bytes then wordByte dw w (k + 1) else b := by
  rw [shiftIn, wordByte_truncWord _ hk, wordByte_or, wordByte_shiftLeft w 1 hk, wordByte_setWidth b hk]
  split <;> simp

theorem wordByte_padWord (w : Word) (c : Nat) {k : Nat} (hk : k < dw.bytes) :
    wordByte dw (padWord dw w c) k =
      if k + (dw.bytes - c) < dw.bytes then wordByte dw w (k + (dw.bytes - c)) else 0 := by
  rw [padWord, wordByte_truncWord _ hk, wordByte_shiftLeft _ _ hk]

theorem wordByte_shiftOut (w : Word) {k : Nat} (hk : k + 1 < dw.bytes) :
    wordByte dw (shiftOut dw w) k = wordByte dw w (k + 1) := by
  rw [shiftOut, wordByte_truncWord _ (by omega), wordByte_shiftLeft w 1 (by omega), if_pos hk]

theorem topByte_eq (dw : DataWidth) (w : Word) : topByte dw w = wordByte dw w 0 := by
  cases dw <;> rfl

/-! ## How many calls -/

theorem Link.lt_calls_iff (l : Link) (j : Nat) : j < l.calls dw ↔ j * dw.bytes < l.len.toNat := by
  cases dw <;> simp only [Link.calls, DataWidth.bytes] <;> omega

/-! ## What the write direction leaves -/

/-- The address, the length and the buffer of `l`. -/
def Link.SameBuffer (l m : Link) : Prop := m.laddr = l.laddr ∧ m.len = l.len ∧ m.buf = l.buf

theorem Link.SameBuffer.laddr {l m : Link} (h : l.SameBuffer m) : m.laddr = l.laddr := h.1

theorem Link.SameBuffer.len {l m : Link} (h : l.SameBuffer m) : m.len = l.len := h.2.1

theorem Link.SameBuffer.buf {l m : Link} (h : l.SameBuffer m) : m.buf = l.buf := h.2.2

theorem Link.packLoop_sameBuffer (n : Nat) (l : Link) : l.SameBuffer (Link.packLoop dw n l).1 := by
  induction n generalizing l with
  | zero => exact ⟨rfl, rfl, rfl⟩
  | succ n ih =>
    simp only [Link.packLoop]
    split
    · exact ⟨rfl, rfl, rfl⟩
    · exact ih (l.packByte dw)

theorem Link.nextWrite_sameBuffer (l : Link) : l.SameBuffer (l.nextWrite dw).1 := by
  have h := l.packLoop_sameBuffer (dw := dw) (l.len.toNat - l.idx)
  simp only [Link.nextWrite]
  split
  · exact h
  · split
    · exact h
    · exact h

theorem Link.writeEntry_sameBuffer (l : Link) : l.SameBuffer (l.writeEntry dw).1 :=
  Link.nextWrite_sameBuffer { l with idx := 0, acc := 0, cnt := 0 }

theorem Link.writeReturn_sameBuffer (l : Link) : l.SameBuffer (l.writeReturn dw).1 := by
  unfold Link.writeReturn
  split
  · exact Link.nextWrite_sameBuffer { l with acc := 0, cnt := 0 }
  · exact ⟨rfl, rfl, rfl⟩

theorem Link.writeCall_sameBuffer (l : Link) (j : Nat) : l.SameBuffer (l.writeCall dw j).1 := by
  induction j with
  | zero => exact l.writeEntry_sameBuffer
  | succ j ih =>
    have h := (l.writeCall dw j).1.writeReturn_sameBuffer (dw := dw)
    exact ⟨h.laddr.trans ih.laddr, h.len.trans ih.len, h.buf.trans ih.buf⟩

/-! ## The words of the write direction -/

/-- `ACC` ends with the `CNT` bytes of the buffer from index `i` on, zeros before them, and `IDX` is past them. -/
def Link.Packed (dw : DataWidth) (i : Nat) (l : Link) : Prop :=
  l.idx = i + l.cnt ∧
  ∀ k < dw.bytes, wordByte dw l.acc k = if dw.bytes ≤ k + l.cnt then l.buf.read (i + (k + l.cnt - dw.bytes)) else 0

theorem Link.packByte_packed {i : Nat} {l : Link} (h : l.Packed dw i) : (l.packByte dw).Packed dw i := by
  obtain ⟨hidx, hacc⟩ := h
  have hcnt : (l.packByte dw).cnt = l.cnt + 1 := rfl
  have hbuf : (l.packByte dw).buf = l.buf := rfl
  have hword : (l.packByte dw).acc = shiftIn dw l.acc (l.buf.read l.idx) := rfl
  refine ⟨congrArg (· + 1) hidx, fun k hk => ?_⟩
  rw [hcnt, hbuf, hword, wordByte_shiftIn _ _ hk]
  split
  case isTrue hk1 => rw [hacc _ hk1, Nat.add_right_comm k 1, Nat.add_assoc]
  case isFalse hk1 =>
    rw [if_pos (by omega), hidx]
    congr 1
    omega

theorem Link.packLoop_packed {i : Nat} (n : Nat) {l : Link} (h : l.Packed dw i) (hc : l.cnt < dw.bytes) :
    (Link.packLoop dw n l).1.Packed dw i ∧ (Link.packLoop dw n l).1.cnt = min dw.bytes (l.cnt + n) ∧
      ((Link.packLoop dw n l).2 = true ↔ (Link.packLoop dw n l).1.cnt = dw.bytes) := by
  induction n generalizing l with
  | zero => exact ⟨h, (min_eq_right hc.le).symm, iff_of_false nofun hc.ne⟩
  | succ n ih =>
    have hp := Link.packByte_packed h
    have hcnt : (l.packByte dw).cnt = l.cnt + 1 := rfl
    simp only [Link.packLoop]
    split
    case isTrue he => exact ⟨hp, by dsimp only; omega, by simp [he]⟩
    case isFalse he =>
      obtain ⟨hp', hcnt', hcall⟩ := ih hp (by omega)
      exact ⟨hp', by omega, hcall⟩

/-- A write-direction operation with the registers of `l` that has written all before index `i`: there is a next call
exactly where `i` is below `LEN`, and its word holds the bytes from `i` on, zeros from `LEN` on. -/
structure Link.WritesAt (dw : DataWidth) (l : Link) (i : Nat) (r : Link × Bool) : Prop where
  call : r.2 = true ↔ i < l.len.toNat
  cnt : i < l.len.toNat → r.1.cnt = min dw.bytes (l.len.toNat - i)
  idx : i < l.len.toNat → r.1.idx = i + r.1.cnt
  word : i < l.len.toNat → ∀ k < dw.bytes,
    wordByte dw r.1.acc k = if i + k < l.len.toNat then l.buf.read (i + k) else 0

theorem Link.WritesAt.of_sameBuffer {l m : Link} {i : Nat} {r : Link × Bool} (h : m.WritesAt dw i r)
    (hs : l.SameBuffer m) : l.WritesAt dw i r := by
  obtain ⟨hcall, hcnt, hidx, hword⟩ := h
  rw [hs.len] at hcall hcnt hidx hword
  rw [hs.buf] at hword
  exact ⟨hcall, hcnt, hidx, hword⟩

theorem Link.nextWrite_writesAt {l : Link} (ha : l.acc = 0) (hc : l.cnt = 0) :
    l.WritesAt dw l.idx (l.nextWrite dw) := by
  have hB := dataBytes_pos dw
  have hstart : l.Packed dw l.idx := ⟨by omega, fun k hk => by rw [ha, wordByte_zero, if_neg (by omega)]⟩
  obtain ⟨⟨hidx, hacc⟩, hcnt, hfull⟩ := Link.packLoop_packed (l.len.toNat - l.idx) hstart (by omega)
  have hbuf := (l.packLoop_sameBuffer (dw := dw) (l.len.toNat - l.idx)).buf
  rw [hc, Nat.zero_add] at hcnt
  simp only [Link.nextWrite]
  split
  case isTrue hr =>
    have hr' := hfull.mp hr
    refine ⟨by simp only [hr, true_iff]; omega, fun _ => hcnt, fun _ => hidx, fun _ k hk => ?_⟩
    rw [hacc k hk, if_pos (by omega), if_pos (by omega), hbuf, hr', Nat.add_sub_cancel]
  case isFalse hr =>
    have hr' : (Link.packLoop dw (l.len.toNat - l.idx) l).1.cnt ≠ dw.bytes := fun h => hr (hfull.mpr h)
    split
    case isTrue hne =>
      refine ⟨by simp only [true_iff]; omega, fun _ => hcnt, fun _ => hidx, fun _ k hk => ?_⟩
      dsimp only
      rw [wordByte_padWord _ _ hk]
      split
      case isTrue hlt =>
        rw [hacc _ hlt, if_pos (by omega), if_pos (by omega), hbuf]
        congr 1
        omega
      case isFalse hge => rw [if_neg (by omega)]
    case isFalse he =>
      have hge : ¬ l.idx < l.len.toNat := by omega
      exact ⟨iff_of_false hr hge, fun h => absurd h hge, fun h => absurd h hge, fun h => absurd h hge⟩

theorem Link.writeReturn_writesAt {l : Link} {i : Nat} {r : Link × Bool} (h : l.WritesAt dw i r)
    (hs : l.SameBuffer r.1) (hi : i < l.len.toNat) : l.WritesAt dw (i + dw.bytes) (r.1.writeReturn dw) := by
  have hcnt := h.cnt hi
  have hidx := h.idx hi
  unfold Link.writeReturn
  split
  case isTrue hc =>
    have hnext := Link.nextWrite_writesAt (dw := dw) (l := { r.1 with acc := 0, cnt := 0 }) rfl rfl
    rw [← hc, ← hidx]
    exact hnext.of_sameBuffer hs
  case isFalse hc =>
    have hge : ¬ i + dw.bytes < l.len.toNat := by omega
    exact ⟨iff_of_false nofun hge, fun h => absurd h hge, fun h => absurd h hge, fun h => absurd h hge⟩

theorem Link.writeCall_writesAt {l : Link} {j : Nat} (hj : j ≤ l.calls dw) :
    l.WritesAt dw (j * dw.bytes) (l.writeCall dw j) := by
  induction j with
  | zero =>
    have hnext := Link.nextWrite_writesAt (dw := dw) (l := { l with idx := 0, acc := 0, cnt := 0 }) rfl rfl
    rw [Nat.zero_mul]
    exact hnext.of_sameBuffer ⟨rfl, rfl, rfl⟩
  | succ j ih =>
    rw [Nat.succ_mul]
    exact Link.writeReturn_writesAt (ih (by omega)) (l.writeCall_sameBuffer j) ((l.lt_calls_iff j).mp hj)

theorem Link.writeCall_fits (l : Link) (j : Nat) : dw.fits (l.writeCall dw j).1.acc = true := by
  induction j with
  | zero => exact Link.writeEntry_acc (W := fun w => dw.fits w = true) (fun _ => id) l
  | succ j ih => exact Link.writeReturn_acc (W := fun w => dw.fits w = true) (fun _ => id) ih

/-! ## What the read direction leaves -/

/-- No index but the one written reads otherwise, the memory in canonical form or not. -/
theorem Memory.read_write_ne (m : Memory) {i k : Nat} (b : Byte) (hk : k ≠ i) :
    Memory.read (Memory.write m i b) k = Memory.read m k := by
  have hcons : ∀ m : Memory, Memory.read (Memory.cons i b m) k = Memory.read m k := fun m => by
    unfold Memory.cons
    split
    · rfl
    · exact Memory.read_tail b m hk.symm
  induction m with
  | nil => exact hcons []
  | cons e m ih =>
    obtain ⟨j, c⟩ := e
    unfold Memory.write
    split
    case isTrue => exact hcons _
    split
    case isTrue hij =>
      subst hij
      rw [hcons, Memory.read_tail c m hk.symm]
    case isFalse hij =>
      unfold Memory.read
      rw [ih]

theorem Buffer.read_write_ne (b : Buffer) {i k : Nat} (v : Byte) (hk : k ≠ i) : (b.write i v).read k = b.read k := by
  unfold Buffer.write
  split
  · exact Memory.read_write_ne b.mem v hk
  · rfl

/-- The loop of the read direction writes from `IDX` on, stops where a word ends, and writes no more bytes than it is
given. -/
theorem Link.unpackLoop_read {e x : Nat} (he : dw.bytes ∣ e) (n : Nat) {l : Link} (hi : l.idx ≤ e)
    (hx : x < l.idx ∨ e ≤ x ∨ l.idx + n ≤ x) : (Link.unpackLoop dw n l).1.buf.read x = l.buf.read x := by
  induction n generalizing l with
  | zero => rfl
  | succ n ih =>
    unfold Link.unpackLoop
    split
    case isTrue => rfl
    case isFalse hne =>
      have hlt : l.idx < e := lt_of_le_of_ne hi fun h => hne (Nat.mod_eq_zero_of_dvd (h ▸ he))
      have hidx : (l.unpackByte dw).idx = l.idx + 1 := rfl
      rw [ih (by omega) (by omega)]
      exact Buffer.read_write_ne _ _ (by omega)

theorem Link.unpackLoop_laddr (n : Nat) (l : Link) : (Link.unpackLoop dw n l).1.laddr = l.laddr := by
  induction n generalizing l with
  | zero => rfl
  | succ n ih =>
    unfold Link.unpackLoop
    split
    · rfl
    · exact ih _

/-- What either direction leaves of the link registers: the address, the length, the size of the buffer, and its bytes but
for a word's from `IDX` on, none of them at or beyond `LEN`. -/
structure Link.KeepsOutside (dw : DataWidth) (l m : Link) : Prop where
  laddr : m.laddr = l.laddr
  len : m.len = l.len
  size : m.buf.size = l.buf.size
  read : ∀ x, x < l.idx ∨ l.idx + dw.bytes ≤ x ∨ (l.ReadOk ∧ l.len.toNat ≤ x) → m.buf.read x = l.buf.read x

theorem Link.KeepsOutside.refl (l : Link) : l.KeepsOutside dw l := ⟨rfl, rfl, rfl, fun _ _ => rfl⟩

theorem Link.SameBuffer.keepsOutside {l m : Link} (h : l.SameBuffer m) : l.KeepsOutside dw m :=
  ⟨h.laddr, h.len, by rw [h.buf], fun _ _ => by rw [h.buf]⟩

theorem Link.readEntry_read (l : Link) (x : Nat) : (l.readEntry dw).1.buf.read x = l.buf.read x :=
  Link.unpackLoop_read (l := { l with idx := 0 }) (dvd_zero _) _ le_rfl (.inr (.inl (Nat.zero_le _)))

theorem Link.readEntry_keepsOutside (l : Link) : l.KeepsOutside dw (l.readEntry dw).1 := by
  obtain ⟨hlen, -, hsize, -⟩ := l.readEntry_readsFrom (dw := dw)
  exact ⟨Link.unpackLoop_laddr _ { l with idx := 0 }, hlen, hsize, fun x _ => l.readEntry_read x⟩

theorem Link.readReturn_keepsOutside (q : Word) (l : Link) : l.KeepsOutside dw (l.readReturn dw q).1 := by
  have hB := dataBytes_pos dw
  obtain ⟨hlen, -, hsize, -⟩ := l.readReturn_readsFrom (dw := dw) q
  refine ⟨Link.unpackLoop_laddr _ (Link.unpackByte dw { l with acc := q }), hlen, hsize, fun x hx => ?_⟩
  have hidx : (Link.unpackByte dw { l with acc := q }).idx = l.idx + 1 := rfl
  have hlen' : (Link.unpackByte dw { l with acc := q }).len.toNat = l.len.toNat := rfl
  have hlo : l.idx < (l.idx / dw.bytes + 1) * dw.bytes := by
    rw [Nat.mul_comm]; exact Nat.lt_mul_div_succ l.idx hB
  have hhi : (l.idx / dw.bytes + 1) * dw.bytes ≤ l.idx + dw.bytes := by
    rw [Nat.succ_mul]; exact Nat.add_le_add_right (Nat.div_mul_le_self ..) _
  have hne : x ≠ l.idx := by
    rcases hx with hx | hx | ⟨⟨hi, -⟩, hx⟩ <;> omega
  unfold Link.readReturn
  rw [Link.unpackLoop_read (dvd_mul_left dw.bytes (l.idx / dw.bytes + 1)) _ (by omega) (by omega)]
  exact Buffer.read_write_ne _ _ hne

/-! ## The bytes of the read direction -/

/-- The registers of `l` after `c` bytes of the word `q` have gone into the buffer from index `i` on: `ACC` has the rest of
the word in front. -/
structure Link.Unpacked (dw : DataWidth) (l : Link) (q : Word) (i c : Nat) (m : Link) : Prop where
  idx : m.idx = i + c
  len : m.len = l.len
  size : m.buf.size = l.buf.size
  wf : m.buf.wf = true
  acc : ∀ k, c + k < dw.bytes → wordByte dw m.acc k = wordByte dw q (c + k)
  read : ∀ x, m.buf.read x = if i ≤ x ∧ x < i + c then wordByte dw q (x - i) else l.buf.read x

theorem Link.Unpacked.unpackByte {l m : Link} {q : Word} {i c : Nat} (h : l.Unpacked dw q i c m) (hc : c < dw.bytes)
    (hi : i + c < l.buf.size) : l.Unpacked dw q i (c + 1) (m.unpackByte dw) where
  idx := congrArg (· + 1) h.idx
  len := h.len
  size := (Buffer.write_size ..).trans h.size
  wf := Buffer.write_wf h.wf _ _
  acc k hk := by
    have hk' : c + (k + 1) < dw.bytes := by omega
    rw [Link.unpackByte, wordByte_shiftOut _ (by omega), h.acc _ hk', Nat.add_right_comm, Nat.add_assoc]
  read x := by
    simp only [Link.unpackByte]
    rw [Buffer.read_write h.wf, h.idx, h.size, topByte_eq, h.acc 0 hc, h.read]
    by_cases hx : x = i + c
    · subst hx
      rw [if_pos ⟨rfl, hi⟩, if_pos ⟨by omega, by omega⟩, Nat.add_zero, Nat.add_sub_cancel_left]
    · rw [if_neg fun h => hx h.1]
      exact if_congr (by omega) rfl rfl

/-- From inside a word the loop goes to the end of the word or of the buffer, and calls again exactly where the word ends
before `LEN`. -/
theorem Link.Unpacked.unpackLoop {l m : Link} {q : Word} {i c : Nat} (n : Nat) (hd : dw.bytes ∣ i)
    (hsize : l.len.toNat ≤ l.buf.size) (h : l.Unpacked dw q i c m) (h1 : 1 ≤ c) (hc : c ≤ dw.bytes)
    (hn : i + c + n = l.len.toNat) :
    l.Unpacked dw q i (min dw.bytes (l.len.toNat - i)) (Link.unpackLoop dw n m).1 ∧
      ((Link.unpackLoop dw n m).2 = true ↔ i + dw.bytes < l.len.toNat) := by
  induction n generalizing c m with
  | zero =>
    rw [show min dw.bytes (l.len.toNat - i) = c by omega]
    exact ⟨h, iff_of_false nofun (by omega)⟩
  | succ n ih =>
    have hmod : m.idx % dw.bytes = 0 ↔ c = dw.bytes := by
      rw [h.idx, Nat.add_mod, Nat.mod_eq_zero_of_dvd hd, Nat.zero_add, Nat.mod_mod]
      refine ⟨fun h0 => le_antisymm hc (Nat.le_of_dvd h1 (Nat.dvd_of_mod_eq_zero h0)), fun he => by rw [he, Nat.mod_self]⟩
    unfold Link.unpackLoop
    split
    case isTrue he =>
      obtain rfl := hmod.mp he
      rw [show min dw.bytes (l.len.toNat - i) = dw.bytes by omega]
      exact ⟨h, iff_of_true rfl (by omega)⟩
    case isFalse he =>
      have hlt : c < dw.bytes := lt_of_le_of_ne hc (mt hmod.mpr he)
      exact ih (h.unpackByte hlt (by omega)) (by omega) hlt (by omega)

/-- A word that comes back goes into the buffer from `IDX` on. -/
theorem Link.readReturn_unpacked {l : Link} (q : Word) (hwf : l.buf.wf = true) (hsize : l.len.toNat ≤ l.buf.size)
    (hd : dw.bytes ∣ l.idx) (hi : l.idx < l.len.toNat) :
    l.Unpacked dw q l.idx (min dw.bytes (l.len.toNat - l.idx)) (l.readReturn dw q).1 ∧
      ((l.readReturn dw q).2 = true ↔ l.idx + dw.bytes < l.len.toNat) := by
  have hB := dataBytes_pos dw
  have h0 : l.Unpacked dw q l.idx 0 { l with acc := q } :=
    ⟨rfl, rfl, rfl, hwf, fun k _ => by rw [Nat.zero_add], fun x => (if_neg (by omega)).symm⟩
  have h1 := h0.unpackByte hB (by omega)
  refine h1.unpackLoop _ hd hsize le_rfl hB ?_
  rw [h1.idx, h1.len]
  omega

/-- A read-direction operation with the registers of `l` after `j` calls: there is a next call, for the bytes from
`j * DATA_BYTES` on, exactly where that is below `LEN`; the bytes before it are those of the words returned. -/
structure Link.ReadsAt (dw : DataWidth) (qs : Nat → Word) (l : Link) (j : Nat) (r : Link × Bool) : Prop where
  call : r.2 = true ↔ j * dw.bytes < l.len.toNat
  idx : j * dw.bytes < l.len.toNat → r.1.idx = j * dw.bytes
  keeps : r.1.laddr = l.laddr ∧ r.1.len = l.len ∧ r.1.buf.size = l.buf.size ∧ r.1.buf.wf = true
  read : ∀ x, r.1.buf.read x =
    if x < j * dw.bytes ∧ x < l.len.toNat then wordByte dw (qs (x / dw.bytes)) (x % dw.bytes) else l.buf.read x

theorem Link.readEntry_readsAt (qs : Nat → Word) {l : Link} (hwf : l.buf.wf = true) :
    l.ReadsAt dw qs 0 (l.readEntry dw) := by
  obtain ⟨hlen, -, hsize, hwf', -⟩ := l.readEntry_readsFrom (dw := dw)
  have hladdr := (l.readEntry_keepsOutside (dw := dw)).laddr
  have hcall : ((l.readEntry dw).2 = true ↔ 0 < l.len.toNat) ∧ (0 < l.len.toNat → (l.readEntry dw).1.idx = 0) := by
    unfold Link.readEntry
    cases l.len.toNat with
    | zero => exact ⟨iff_of_false nofun nofun, nofun⟩
    | succ n => simp [Link.unpackLoop]
  refine ⟨by rw [Nat.zero_mul]; exact hcall.1, by rw [Nat.zero_mul]; exact hcall.2, ⟨hladdr, hlen, hsize, hwf' hwf⟩,
    fun x => ?_⟩
  rw [l.readEntry_read, if_neg (by omega)]

theorem Link.readReturn_readsAt {qs : Nat → Word} {l : Link} {j : Nat} {r : Link × Bool} (h : l.ReadsAt dw qs j r)
    (hsize : l.len.toNat ≤ l.buf.size) (hj : j * dw.bytes < l.len.toNat) :
    l.ReadsAt dw qs (j + 1) (r.1.readReturn dw (qs j)) := by
  have hB := dataBytes_pos dw
  have hidx := h.idx hj
  obtain ⟨hladdr, hlen, hsz, hwf⟩ := h.keeps
  obtain ⟨hu, hcall⟩ := Link.readReturn_unpacked (dw := dw) (qs j) hwf (by rw [hlen, hsz]; exact hsize)
    (hidx ▸ dvd_mul_left _ _) (by rw [hlen, hidx]; exact hj)
  have hladdr' := (r.1.readReturn_keepsOutside (dw := dw) (qs j)).laddr
  have hread := hu.read
  have hidx' := hu.idx
  rw [hlen, hidx] at hcall hread hidx'
  refine ⟨by rw [Nat.succ_mul]; exact hcall, fun hlt => ?_,
    ⟨hladdr'.trans hladdr, hu.len.trans hlen, hu.size.trans hsz, hu.wf⟩, fun x => ?_⟩
  · rw [Nat.succ_mul] at hlt ⊢
    omega
  · rw [hread x, h.read x, Nat.succ_mul]
    by_cases hx : j * dw.bytes ≤ x ∧ x < j * dw.bytes + dw.bytes
    · obtain ⟨hdiv, hmod⟩ := (Nat.div_mod_unique (a := x) (c := x - j * dw.bytes) (d := j) hB).mpr
        ⟨by rw [Nat.mul_comm dw.bytes]; omega, by omega⟩
      rw [hdiv, hmod, if_neg (c := x < j * dw.bytes ∧ x < l.len.toNat) (by omega)]
      exact if_congr (by omega) rfl rfl
    · rw [if_neg (c := j * dw.bytes ≤ x ∧ _) (by omega)]
      exact if_congr (by omega) rfl rfl

theorem Link.readCall_readsAt (qs : Nat → Word) {l : Link} {j : Nat} (hwf : l.buf.wf = true)
    (hsize : l.len.toNat ≤ l.buf.size) (hj : j ≤ l.calls dw) : l.ReadsAt dw qs j (l.readCall dw qs j) := by
  induction j with
  | zero => exact Link.readEntry_readsAt qs hwf
  | succ j ih => exact Link.readReturn_readsAt (ih (by omega)) hsize ((l.lt_calls_iff j).mp hj)

/-- Settles O37: the write loop comes to its calls as `WritesAt` says, the read loop as `ReadsAt` says. -/
theorem countLawAndPackingLaw : Obligations.CountLawAndPackingLaw := by
  refine ⟨fun dw l j hj => ?_, fun dw l qs j hwf hsize hj => ?_⟩
  · have h := Link.writeCall_writesAt hj
    have hs := l.writeCall_sameBuffer (dw := dw) j
    simp only [l.lt_calls_iff]
    exact ⟨h.call, hs.laddr, hs.len, hs.buf, fun hlt => ⟨l.writeCall_fits j, h.word hlt⟩⟩
  · have h := Link.readCall_readsAt qs hwf hsize hj
    obtain ⟨hladdr, hlen, hsz, -⟩ := h.keeps
    rw [l.lt_calls_iff]
    exact ⟨h.call, hladdr, hlen, hsz, h.read⟩

end Sys2Proof.Machine
end

section
/-! The segments of LMW, LMR, LSW and LSR that are their own (43_media_access.md R123 to R131, R134): the issue, and from the
entry or the end of a called word-level operation through the loop to the next call or the completion. -/

namespace Sys2Proof.Machine

variable {s b : State} {a : Addr} {n : Len} {r : Link × Bool}

/-! ## Issue -/

/-- Settles O19: `LEN` and the counter of drawn lengths are those of `latchedLength` and `drawLength`, and each meaning issues
to an idle unit of its kind. -/
theorem issueLatchesLinkOperands : Obligations.IssueLatchesLinkOperands := by
  intro s a n m x hsize hm
  obtain ⟨rfl, rfl⟩ : m = s.latchedLength n ∧ x = (s.drawLength n).drawn := by
    rcases hm with ⟨hlt, rfl, rfl⟩ | ⟨hge, rfl, rfl⟩
    · have hf : s.cfg.lengthFits m = true := decide_eq_true hlt
      exact ⟨(latchedLength_of_fits hf).symm, by rw [drawLength_of_fits hf]⟩
    · have hf : s.cfg.lengthFits n = false := decide_eq_false hge.not_gt
      exact ⟨by simp [State.latchedLength, hf], by simp [hf]⟩
  exact ⟨of_decide_eq_true (latchedLength_fits n), latchedLength_le n,
    fun hi => ⟨execLmw_next.mpr ⟨hi.1, .inl ⟨hi.mu_phase, hsize, rfl⟩⟩,
      execLmr_next.mpr ⟨hi.1, .inl ⟨hi.mu_phase, hsize, rfl⟩⟩⟩,
    fun k u hi hu => ⟨execLsw_next.mpr ⟨k, u, hi.1, hu, .inl ⟨hi.su_phase hu, hsize, rfl⟩⟩,
      execLsr_next.mpr ⟨k, u, hi.1, hu, .inl ⟨hi.su_phase hu, hsize, rfl⟩⟩⟩⟩

/-! ## `MU` -/

theorem State.Runs.mu_current {i : Instr} (h : s.Runs .mu i) : s.mu.current = some i := by
  obtain ⟨-, hc, -⟩ := h
  exact hc

theorem execLmw_start (h : s.Runs .mu (.lmw a n)) (hp : s.mu.phase = .lmwStart) :
    execLmw a n s =
      lmwContinue (s.mu.link.writeEntry s.cfg.dataWidth) (s.withMu { s.mu with susp := .none }) := by
  have hc := h.mu_current
  obtain ⟨hsel, -, he⟩ := h
  simp [execLmw, hsel, hp, hc, runMaster, he]

theorem execLmr_start (h : s.Runs .mu (.lmr a n)) (hp : s.mu.phase = .lmrStart) :
    execLmr a n s =
      lmrContinue (s.mu.link.readEntry s.cfg.dataWidth) (s.withMu { s.mu with susp := .none }) := by
  have hc := h.mu_current
  obtain ⟨hsel, -, he⟩ := h
  simp [execLmr, hsel, hp, hc, runMaster, he]

/-- The wait for the release passes at once where `ack` is 0. -/
theorem muWaitUntil_released {p : MasterPhase} {rest : State → Answer} (ha : s.bus.ack = false) :
    muWaitUntil p .ack false rest s = rest (s.withMu { s.mu with phase := p }) := if_pos ha

/-- LMW at its entry, or where a called MW completes, goes on with its loop. -/
theorem execLmw_continues (h : s.Runs .mu (.lmw a n))
    (hr : (s.mu.phase = .lmwStart ∧ s.mu.link.writeEntry s.cfg.dataWidth = r) ∨
      (((s.mu.phase = .mw .waitRel ∧ s.bus.ack = false) ∨ s.mu.phase = .mw .txnHold) ∧
        s.mu.link.writeReturn s.cfg.dataWidth = r)) :
    ∃ p, execLmw a n s = lmwContinue r (s.withMu { s.mu with phase := p, susp := .none }) := by
  rcases hr with ⟨hp, rfl⟩ | ⟨⟨hp, ha⟩ | hp, rfl⟩
  · exact ⟨_, execLmw_start h hp⟩
  · exact ⟨_, (execLmw_run h hp).trans (muWaitUntil_released ha)⟩
  · exact ⟨_, execLmw_run h hp⟩

/-- LMR at its entry, or where a called MR completes, goes on with its loop. -/
theorem execLmr_continues (h : s.Runs .mu (.lmr a n))
    (hr : (s.mu.phase = .lmrStart ∧ s.mu.link.readEntry s.cfg.dataWidth = r) ∨
      (((s.mu.phase = .mr .waitRel ∧ s.bus.ack = false) ∨ s.mu.phase = .mr .txnHold) ∧
        s.mu.link.readReturn s.cfg.dataWidth s.mu.q = r)) :
    ∃ p, execLmr a n s = lmrContinue r (s.withMu { s.mu with phase := p, susp := .none }) := by
  rcases hr with ⟨hp, rfl⟩ | ⟨⟨hp, ha⟩ | hp, rfl⟩
  · exact ⟨_, execLmr_start h hp⟩
  · exact ⟨_, (execLmr_run h hp).trans (muWaitUntil_released ha)⟩
  · exact ⟨_, execLmr_run h hp⟩

/-- Settles O33: where LMW goes on with its loop, and the first segment of the MW it then calls. -/
theorem masterBufferWriteSegments : Obligations.MasterBufferWriteSegments := by
  intro s a n l more h hr
  obtain ⟨p, hgo⟩ := execLmw_continues h hr
  obtain rfl : l.laddr = a := by
    obtain ⟨-, ha, -⟩ := MasterUnit.current_lmw h.mu_current
    rcases hr with ⟨-, hl⟩ | ⟨-, hl⟩
    · exact (hl ▸ (Link.writeEntry_sameBuffer s.mu.link).laddr).trans ha
    · exact (hl ▸ (Link.writeReturn_sameBuffer s.mu.link).laddr).trans ha
  refine hgo.trans ?_
  cases more with
  | false => rfl
  | true =>
    cases hv : s.cfg.variant with
    | pin => exact congrArg Host.Outcome.next (mwBegin_pin hv)
    | txn => exact congrArg Host.Outcome.next (mwBegin_txn hv)

/-- Settles O34: where LMR goes on with its loop, and the first segment of the MR it then calls. -/
theorem masterBufferReadSegments : Obligations.MasterBufferReadSegments := by
  intro s a n l more h hr
  obtain ⟨p, hgo⟩ := execLmr_continues h hr
  obtain rfl : l.laddr = a := by
    obtain ⟨-, ha, -⟩ := MasterUnit.current_lmr h.mu_current
    rcases hr with ⟨-, hl⟩ | ⟨-, hl⟩
    · exact (hl ▸ (Link.readEntry_keepsOutside s.mu.link).laddr).trans ha
    · exact (hl ▸ (Link.readReturn_keepsOutside s.mu.q s.mu.link).laddr).trans ha
  refine hgo.trans ?_
  cases more with
  | false => rfl
  | true =>
    cases hv : s.cfg.variant with
    | pin => exact congrArg Host.Outcome.next (mrBegin_pin hv)
    | txn => exact congrArg Host.Outcome.next (mrBegin_txn hv)

/-! ## `SU[k]` -/

section
variable {k : Nat} {u v : SlaveUnit}

/-! What a unit was in the state does not matter to what a segment of SR or SW makes of it, nor does its phase. -/

theorem takeMatch_withSu {dir : SlaveDir} {f g : State → State} (h : ∀ s : State, f (s.withSu k v) = g s) (s : State) :
    takeMatch dir f (s.withSu k v) = takeMatch dir g s :=
  if_congr Iff.rfl rfl (if_congr Iff.rfl (congrArg _ (h (s.markServed true))) rfl)

theorem readCell_congr {α : Type} {c : CellName} {x : Option α} {f g : α → Answer} (h : ∀ w, f w = g w) :
    readCell c x f = readCell c x g := congrArg _ (funext h)

theorem servePin_withSu (s : State) (p : SlavePhase) :
    servePin k { u with phase := p } (s.withSu k v) = servePin k u s := by
  obtain ⟨ph, w, a, d, q, dir, lop, link, port⟩ := u
  cases dir with
  | capture => exact readCell_congr fun _ => takeMatch_withSu (fun s => s.withSu_suWaitfor k _ v .service s.cfg.tSlave) s
  | drive =>
    unfold servePin
    exact takeMatch_withSu (fun s => (s.driveData d).withSu_suWaitfor k _ v .service s.cfg.tSlave) s

theorem slaveBegin_withSu (s : State) (p : SlavePhase) :
    slaveBegin k { u with phase := p } (s.withSu k v) = slaveBegin k u s := by
  have hpin : suAwaitReady k { u with phase := p } (s.withSu k v) = suAwaitReady k u s :=
    if_congr Iff.rfl
      (readCell_congr fun _ => if_congr Iff.rfl (servePin_withSu s p)
        (congrArg Host.Outcome.next (s.withSu_suWaitfor k _ v .backoff s.cfg.tBackoff)))
      (congrArg Host.Outcome.next (s.withSu_suSuspend k _ v .waitReady _))
  have htxn : (s.withSu k v).suSuspend k { u with phase := p } .txnWaitReady (.notice .readyNotice) =
      s.suSuspend k u .txnWaitReady (.notice .readyNotice) := s.withSu_suSuspend k _ v .txnWaitReady _
  unfold slaveBegin
  rw [hpin, htxn]
  rfl

/-- A called SR or SW starts as it does when it has been issued, but for `LOP`. -/
theorem slaveBegin_call {i : Instr} (hsel : s.sel = .su k) (hk : k < s.su.length) (hp : u.phase = .word .start)
    (hw : u.susp = .none) (hi : u.current = some i) (x : SlaveLop) (ph : SlavePhase) :
    slaveBegin k { u with phase := ph, lop := x } (s.withSu k v) =
      mapNext (State.restoreLop k x) (exec i (s.withSu k u)) := by
  have hk' : (s.withSu k u).su[k]? = some u := by simp [hk]
  have hr : (s.withSu k u).Runs (.su k) i := by
    refine ⟨hsel, by simp [State.current, hk, hi], ?_⟩
    simp [State.enabled, State.current, State.suspOf, hk, hi, hw, Susp.met]
  obtain ⟨ret, he⟩ := exec_slaveSegment hk' hp hr
  have hu : { u with susp := .none } = u := by rw [← hw]
  rw [he, hu, State.withSu_withSu]
  refine Eq.trans ?_ (SlaveCallAgrees.slaveBegin (x := x) (s.withSu k u) u)
  rw [State.withSu_restoreLop]
  exact (slaveBegin_withSu (u := { u with lop := x }) s ph).trans (slaveBegin_withSu (u := { u with lop := x }) s u.phase).symm

/-- `SU[k]`, which is `u`, is at the entry of its link-level operation, or ends a called word-level operation and so drops
`ack` or signals `ackNotice`; it goes on in the state `b` with the registers and the verdict `r` of its loop. -/
def State.GoesOn (s b : State) (u : SlaveUnit) (start : SlavePhase) (entry back r : Link × Bool) : Prop :=
  (u.phase = start ∧ entry = r ∧ b = s) ∨
  (u.phase = .word .ackRel ∧ back = r ∧ b = { s with bus := { s.bus with ack := false } }) ∨
  (u.phase = .word .txnAckRel ∧ back = r ∧ b = s.notify .ackNotice)

theorem State.GoesOn.fixed {start : SlavePhase} {entry back : Link × Bool} (h : s.GoesOn b u start entry back r) :
    b.cfg = s.cfg ∧ b.now = s.now ∧ b.sel = s.sel ∧ b.bus.ready = s.bus.ready ∧ b.su.length = s.su.length := by
  rcases h with ⟨-, -, rfl⟩ | ⟨-, -, rfl⟩ | ⟨-, -, rfl⟩
  · exact ⟨rfl, rfl, rfl, rfl, rfl⟩
  · exact ⟨rfl, rfl, rfl, rfl, rfl⟩
  · exact ⟨rfl, rfl, rfl, rfl, List.length_map ..⟩

theorem State.GoesOn.laddr {start : SlavePhase} {entry back : Link × Bool} (h : s.GoesOn b u start entry back r)
    (he : entry.1.laddr = u.link.laddr) (hb : back.1.laddr = u.link.laddr) : r.1.laddr = u.link.laddr := by
  rcases h with ⟨-, rfl, -⟩ | ⟨-, rfl, -⟩ | ⟨-, rfl, -⟩
  · exact he
  · exact hb
  · exact hb

/-- What LSW or LSR answers from its loop, `dir` and `d` being the direction and the word of its calls: the word-level
operation `i` of them, but for `LOP`, or its completion. -/
theorem State.GoesOn.answers {start : SlavePhase} {entry back : Link × Bool} {l : Link} {more : Bool} {dir : SlaveDir}
    {d : Word} {i : Instr} {res : Result} {A : Answer} (hg : s.GoesOn b u start entry back (l, more))
    (hk : s.su[k]? = some u) (hsel : s.sel = .su k)
    (hi : { u with
      phase := .word .start, susp := .none, lop := .none, a := l.laddr, d := d, dir := dir, link := l }.current = some i)
    (hA : A = if more then slaveBegin k { u with susp := .none, link := l, a := l.laddr, dir := dir, d := d }
        (b.withSu k { u with susp := .none })
      else completeSlave k res { u with susp := .none, link := l } (b.withSu k { u with susp := .none })) :
    (more = true → A = mapNext (State.restoreLop k u.lop) (exec i (b.withSu k { u with
      phase := .word .start, susp := .none, lop := .none, a := l.laddr, d := d, dir := dir, link := l }))) ∧
    (more = true → s.cfg.variant = .pin → s.bus.ready = false → A = .next (b.withSu k { u with
      phase := .word .waitReady, susp := .level .ready true, a := l.laddr, d := d, dir := dir, link := l })) ∧
    (more = false → A = .next (b.withSu k { u with
      phase := .idle, susp := .none, lop := .none, link := l, port := ⟨u.port.todo, some ⟨s.now, res⟩⟩ })) := by
  obtain ⟨hcfg, hnow, hsel', hready, hlen⟩ := hg.fixed
  obtain ⟨hlt, -⟩ := List.getElem?_eq_some_iff.mp hk
  refine ⟨?_, ?_, ?_⟩
  · rintro rfl
    exact hA.trans (slaveBegin_call (hsel'.trans hsel) (hlen.symm ▸ hlt) rfl rfl hi u.lop u.phase)
  · rintro rfl hv hr
    exact hA.trans (slaveBegin_next.mpr (.inl ⟨hcfg ▸ hv, suAwaitReady_next.mpr (.inr ⟨hready ▸ hr,
      b.withSu_suSuspend k _ _ _ _⟩)⟩))
  · rintro rfl
    rw [← hnow]
    exact hA.trans (completeSlave_next.mpr (b.withSu_withSu k _ _))

theorem State.notify_withSu_running (s : State) (k : Nat) (e : Notice) (u : SlaveUnit) :
    (s.withSu k { u with susp := .none }).notify e = (s.notify e).withSu k { u with susp := .none } := by
  simp [State.withSu, State.notify, State.wake, List.map_set]

theorem execLsw_start (hk : s.su[k]? = some u) (hp : u.phase = .lswStart) (h : s.Runs (.su k) (.lsw a n)) :
    execLsw a n s = lswContinue k (u.link.writeEntry s.cfg.dataWidth) { u with susp := .none }
      (s.withSu k { u with susp := .none }) := by
  have hc := h.su_current hk
  obtain ⟨hsel, -, he⟩ := h
  simp [execLsw, withSlave, hsel, hk, hp, hc, runSlave, he]

theorem execLsr_start (hk : s.su[k]? = some u) (hp : u.phase = .lsrStart) (h : s.Runs (.su k) (.lsr a n)) :
    execLsr a n s = lsrContinue k (u.link.readEntry s.cfg.dataWidth) { u with susp := .none }
      (s.withSu k { u with susp := .none }) := by
  have hc := h.su_current hk
  obtain ⟨hsel, -, he⟩ := h
  simp [execLsr, withSlave, hsel, hk, hp, hc, runSlave, he]

theorem execLsw_continues (hk : s.su[k]? = some u) (h : s.Runs (.su k) (.lsw a n))
    (hg : s.GoesOn b u .lswStart (u.link.writeEntry s.cfg.dataWidth) (u.link.writeReturn s.cfg.dataWidth) r) :
    execLsw a n s = lswContinue k r { u with susp := .none } (b.withSu k { u with susp := .none }) := by
  rcases hg with ⟨hp, rfl, rfl⟩ | ⟨hp, rfl, rfl⟩ | ⟨hp, rfl, rfl⟩
  · exact execLsw_start hk hp h
  · exact execLsw_run hk hp h
  · rw [← State.notify_withSu_running]
    exact execLsw_run hk hp h

theorem execLsr_continues (hk : s.su[k]? = some u) (h : s.Runs (.su k) (.lsr a n))
    (hg : s.GoesOn b u .lsrStart (u.link.readEntry s.cfg.dataWidth) (u.link.readReturn s.cfg.dataWidth u.q) r) :
    execLsr a n s = lsrContinue k r { u with susp := .none } (b.withSu k { u with susp := .none }) := by
  rcases hg with ⟨hp, rfl, rfl⟩ | ⟨hp, rfl, rfl⟩ | ⟨hp, rfl, rfl⟩
  · exact execLsr_start hk hp h
  · exact execLsr_run hk hp h
  · rw [← State.notify_withSu_running]
    exact execLsr_run hk hp h

end

/-- Settles O35: where LSW goes on with its loop, and the SW it then calls. -/
theorem slaveBufferWriteSegments : Obligations.SlaveBufferWriteSegments := by
  intro s b k u a n l more hk h hg
  obtain ⟨-, ha, -⟩ := SlaveUnit.current_lsw (h.su_current hk)
  obtain rfl : l.laddr = a := (State.GoesOn.laddr hg (Link.writeEntry_sameBuffer u.link).laddr
    (Link.writeReturn_sameBuffer u.link).laddr).trans ha
  exact State.GoesOn.answers hg hk h.1 rfl (execLsw_continues hk h hg)

/-- Settles O36: where LSR goes on with its loop, and the SR it then calls. -/
theorem slaveBufferReadSegments : Obligations.SlaveBufferReadSegments := by
  intro s b k u a n l more hk h hg
  obtain ⟨-, ha, -⟩ := SlaveUnit.current_lsr (h.su_current hk)
  obtain rfl : l.laddr = a := (State.GoesOn.laddr hg (Link.readEntry_keepsOutside u.link).laddr
    (Link.readReturn_keepsOutside u.q u.link).laddr).trans ha
  exact State.GoesOn.answers (d := u.d) hg hk h.1 rfl (execLsr_continues hk h hg)

/-! ## Length zero -/

theorem Link.writeEntry_of_len_zero {dw : DataWidth} {l : Link} (h : l.len = 0) :
    l.writeEntry dw = ({ l with idx := 0, acc := 0, cnt := 0 }, false) := by
  simp [Link.writeEntry, Link.nextWrite, Link.packLoop, h]

theorem Link.readEntry_of_len_zero {dw : DataWidth} {l : Link} (h : l.len = 0) :
    l.readEntry dw = ({ l with idx := 0 }, false) := by
  simp [Link.readEntry, Link.unpackLoop, h]

/-- Settles O38: with `LEN` 0 the entry of either loop comes to the completion, which is O33 to O36. -/
theorem lengthZeroCompletesAtOnce : Obligations.LengthZeroCompletesAtOnce := by
  refine ⟨fun s a h hp => ?_, fun s a h hp => ?_, fun s k u a hk h hp => ?_, fun s k u a hk h hp => ?_⟩
  · obtain ⟨-, -, hlen⟩ := MasterUnit.current_lmw h.mu_current
    exact masterBufferWriteSegments s a 0 _ false h (.inl ⟨hp, Link.writeEntry_of_len_zero hlen⟩)
  · obtain ⟨-, -, hlen⟩ := MasterUnit.current_lmr h.mu_current
    exact masterBufferReadSegments s a 0 _ false h (.inl ⟨hp, Link.readEntry_of_len_zero hlen⟩)
  · obtain ⟨-, -, hlen⟩ := SlaveUnit.current_lsw (h.su_current hk)
    obtain ⟨-, -, hend⟩ := slaveBufferWriteSegments s s k u a 0 _ false hk h
      (.inl ⟨hp, Link.writeEntry_of_len_zero hlen, rfl⟩)
    exact hend rfl
  · obtain ⟨-, -, hlen⟩ := SlaveUnit.current_lsr (h.su_current hk)
    obtain ⟨-, -, hend⟩ := slaveBufferReadSegments s s k u a 0 _ false hk h
      (.inl ⟨hp, Link.readEntry_of_len_zero hlen, rfl⟩)
    exact hend rfl

/-! ## The document's scenario -/

/-- A 32-bit word is its four bytes. -/
theorem Word.eq_of_wordByte_eq {v w : Word} (h : ∀ k < 4, wordByte .w32 v k = wordByte .w32 w k) : v = w := by
  refine BitVec.eq_of_getLsbD_eq fun m hm => ?_
  have hb := congrArg (fun c : Byte => c.getLsbD (m % 8)) (h (3 - m / 8) (by omega))
  have he : 8 * (3 - (3 - m / 8)) + m % 8 = m := by omega
  simpa [wordByte, DataWidth.bytes, Nat.mod_lt, he] using hb

/-- The word of the first call is known by the bytes of the buffer. -/
theorem Link.writeCall_zero_acc {l : Link} {w : Word} (hlen : 0 < l.len.toNat)
    (hw : ∀ k < 4, wordByte .w32 w k = if k < l.len.toNat then l.buf.read k else 0) :
    (l.writeCall .w32 0).1.acc = w := by
  have h := (Link.writeCall_writesAt (dw := .w32) (Nat.zero_le (l.calls .w32))).word
  rw [Nat.zero_mul] at h
  exact Word.eq_of_wordByte_eq fun k hk => by rw [h hlen k hk, Nat.zero_add, hw k hk]

/-- Settles O39: the one call by the packing law and its count, its segment and the completion by O33. -/
theorem theDocumentsBufferWrites : Obligations.TheDocumentsBufferWrites := by
  intro s n w hdw h hn h0 h1
  obtain ⟨-, -, hlen⟩ := MasterUnit.current_lmw h.mu_current
  have hpos : 0 < s.mu.link.len.toNat := by
    rw [hlen]
    rcases hn with ⟨rfl, -⟩ | ⟨rfl, -⟩ <;> decide
  have hword : (s.mu.link.writeCall .w32 0).1.acc = w := by
    refine Link.writeCall_zero_acc hpos fun k hk => ?_
    rw [hlen]
    rcases hn with ⟨rfl, rfl, h2, h3⟩ | ⟨rfl, rfl⟩
    · interval_cases k
      · rw [h0]; decide
      · rw [h1]; decide
      · rw [h2]; decide
      · rw [h3]; decide
    · interval_cases k
      · rw [h0]; decide
      · rw [h1]; decide
      · rw [if_neg (by decide)]; decide
      · rw [if_neg (by decide)]; decide
  refine ⟨fun hp => ?_, fun l hp hl => ?_⟩
  · have hcall : (s.mu.link.writeCall .w32 0).2 = true :=
      (Link.writeCall_writesAt (Nat.zero_le _)).call.mpr (by rwa [Nat.zero_mul])
    have he := masterBufferWriteSegments s 0x0010 n (s.mu.link.writeCall .w32 0).1 true h
      (.inl ⟨hp, by rw [← hcall, hdw]; rfl⟩)
    rw [hword] at he
    cases hv : s.cfg.variant with
    | pin =>
      rw [hv] at he
      exact ⟨_, he, fun _ => ⟨rfl, rfl, rfl⟩, nofun, rfl, rfl, rfl⟩
    | txn =>
      rw [hv] at he
      exact ⟨_, he, nofun, fun _ => ⟨rfl, rfl⟩, rfl, rfl, rfl⟩
  · have hlen' := (l.writeCall_sameBuffer (dw := .w32) 0).len
    have hn' : l.calls .w32 = 1 := by
      rw [← hl, hlen] at hlen'
      rw [Link.calls, ← hlen']
      rcases hn with ⟨rfl, -⟩ | ⟨rfl, -⟩ <;> rfl
    have hstop : (l.writeCall .w32 1).2 = false := by
      rw [Bool.eq_false_iff, Ne, (Link.writeCall_writesAt hn'.ge).call, ← Link.lt_calls_iff, hn']
      exact lt_irrefl 1
    have he := masterBufferWriteSegments s 0x0010 n (l.writeCall .w32 1).1 false h
      (.inr ⟨hp, by rw [← hstop, hdw, hl]; rfl⟩)
    exact ⟨_, he, rfl, rfl, rfl, rfl⟩

end Sys2Proof.Machine
end

section
/-! The frames of the link-level operations (43_media_access.md R121, R123, R125, R127, R128; 20_memory.md R40). A move of one
writes what the called word-level operation writes (`MasterWrites`, `SlaveWrites`), and where that operation ends it goes
on, from there, as the first segment of the next call writes. The loop's own part is `KeepsOutside`. -/

namespace Sys2Proof.Machine

variable {s t r : State}

/-! ## `MU` -/

theorem State.MasterWrites.cfg_eq (h : s.MasterWrites t) : t.cfg = s.cfg := by
  cases h <;> rfl

/-- Where LMW and LMR run their loop, `ack` being as given: at the entry, and where a called MW or MR completes. -/
def MasterPhase.loops (ack : Bool) : MasterPhase → Bool
  | .lmwStart => true
  | .lmrStart => true
  | .mw .hold => !ack
  | .mw .waitRel => !ack
  | .mw .txnHold => true
  | .mr .hold => !ack
  | .mr .waitRel => !ack
  | .mr .txnHold => true
  | _ => false

/-- A wait for the release with `ack` 1 does not pass, so it does not matter what comes after it. -/
theorem muWaitUntil_congr {p : MasterPhase} {ret ret' : State → Answer} (ha : s.bus.ack = true) :
    muWaitUntil p .ack false ret s = muWaitUntil p .ack false ret' s := by
  have hl : s.level .ack ≠ false := by simp [State.level, ha]
  exact (if_neg hl).trans (if_neg hl).symm

theorem mwSegment_congr {p : MwPoint} {ret ret' : State → Answer} (h : (MasterPhase.mw p).loops s.bus.ack = false) :
    mwSegment ret p s = mwSegment ret' p s := by
  cases p with
  | hold => exact muWaitUntil_congr (s := s.driveReady false) ((Bool.not_eq_false' _).mp h)
  | waitRel => exact muWaitUntil_congr ((Bool.not_eq_false' _).mp h)
  | txnHold => cases h
  | start | setup | waitAck | txnSetup | txnWaitAck => rfl

theorem mrSegment_congr {p : MrPoint} {ret ret' : State → Answer} (h : (MasterPhase.mr p).loops s.bus.ack = false) :
    mrSegment ret p s = mrSegment ret' p s := by
  cases p with
  | hold => exact muWaitUntil_congr (s := s.driveReady false) ((Bool.not_eq_false' _).mp h)
  | waitRel => exact muWaitUntil_congr ((Bool.not_eq_false' _).mp h)
  | txnHold => cases h
  | start | setup | waitAck | txnSetup | txnWaitAck => rfl

/-- Where `MU` does not loop, a segment of MW stays inside MW. -/
theorem mwSegment_inside {p : MwPoint} {ret : State → Answer} (hp : s.mu.phase = .mw p)
    (hl : s.mu.phase.loops s.bus.ack = false) (hs : mwSegment ret p s = .next t) :
    s.MasterWrites t ∧ ∃ ph w, t.mu = { s.mu with phase := ph, susp := w } := by
  rw [mwSegment_congr (ret' := fun _ => .refused .busy) (hp ▸ hl)] at hs
  obtain ⟨r, hw, hmu, rfl | hr⟩ := mwSegment_writes hp hs
  · exact ⟨hw, hmu⟩
  · cases hr

/-- Where `MU` does not loop, a segment of MR stays inside MR; waiting for the release it keeps `Q`. -/
theorem mrSegment_inside {p : MrPoint} {ret : State → Answer} (hp : s.mu.phase = .mr p)
    (hl : s.mu.phase.loops s.bus.ack = false) (hs : mrSegment ret p s = .next t) :
    s.MasterWrites t ∧ (∃ ph w q, t.mu = { s.mu with phase := ph, susp := w, q := q }) ∧
      (p = .hold ∨ p = .waitRel → t.mu.q = s.mu.q) := by
  rw [mrSegment_congr (ret' := fun _ => .refused .busy) (hp ▸ hl)] at hs
  obtain ⟨r, hw, hmu, rfl | hr⟩ := mrSegment_writes hp hs
  · refine ⟨hw, hmu, ?_⟩
    rintro (rfl | rfl)
    · rcases mrRelease_next.mp hs with ⟨-, hr⟩ | ⟨-, rfl⟩
      · cases hr
      · rfl
    · rcases mrRelease_next.mp hs with ⟨-, hr⟩ | ⟨-, rfl⟩
      · cases hr
      · rfl
  · cases hr

/-- Where `MU` loops, a segment of MW returns; before, it writes no more than `ready` and `PHASE`. -/
theorem mwSegment_returns {p : MwPoint} (hp : s.mu.phase = .mw p) (hl : s.mu.phase.loops s.bus.ack = true) :
    ∃ r ph, s.MasterWrites r ∧ r.mu = { s.mu with phase := ph } ∧ ∀ ret, mwSegment ret p s = ret r := by
  rw [hp] at hl
  cases p with
  | hold =>
    exact ⟨_, _, .ready false _ (by simp [hp]), rfl,
      fun ret => muWaitUntil_released (s := s.driveReady false) ((Bool.not_eq_true' _).mp hl)⟩
  | waitRel =>
    exact ⟨_, _, .own _ (by simp [hp]), rfl, fun ret => muWaitUntil_released ((Bool.not_eq_true' _).mp hl)⟩
  | txnHold => exact ⟨s, _, .own s.mu (by simp [hp]), rfl, fun ret => rfl⟩
  | start | setup | waitAck | txnSetup | txnWaitAck => cases hl

/-- Where `MU` loops, a segment of MR returns; before, it writes no more than `ready` and `PHASE`. -/
theorem mrSegment_returns {p : MrPoint} (hp : s.mu.phase = .mr p) (hl : s.mu.phase.loops s.bus.ack = true) :
    ∃ r ph, s.MasterWrites r ∧ r.mu = { s.mu with phase := ph } ∧ ∀ ret, mrSegment ret p s = ret r := by
  rw [hp] at hl
  cases p with
  | hold =>
    exact ⟨_, _, .ready false _ (by simp [hp]), rfl,
      fun ret => muWaitUntil_released (s := s.driveReady false) ((Bool.not_eq_true' _).mp hl)⟩
  | waitRel =>
    exact ⟨_, _, .own _ (by simp [hp]), rfl, fun ret => muWaitUntil_released ((Bool.not_eq_true' _).mp hl)⟩
  | txnHold => exact ⟨s, _, .own s.mu (by simp [hp]), rfl, fun ret => rfl⟩
  | start | setup | waitAck | txnSetup | txnWaitAck => cases hl

theorem mwBegin_writes (s : State) (v : MasterUnit) :
    (s.withMu { s.mu with phase := .mw .start }).MasterWrites (mwBegin (s.withMu v)) ∧
      ∃ ph w, (mwBegin (s.withMu v)).mu = { v with phase := ph, susp := w } := by
  cases hv : s.cfg.variant with
  | pin => rw [mwBegin_pin (s := s.withMu v) hv]; exact ⟨.mwPin _ _ _ rfl hv, _, _, rfl⟩
  | txn => rw [mwBegin_txn (s := s.withMu v) hv]; exact ⟨.mwTxn _ _ _ rfl hv, _, _, rfl⟩

theorem mrBegin_writes (s : State) (v : MasterUnit) :
    (s.withMu { s.mu with phase := .mr .start }).MasterWrites (mrBegin (s.withMu v)) ∧
      ∃ ph w, (mrBegin (s.withMu v)).mu = { v with phase := ph, susp := w } := by
  cases hv : s.cfg.variant with
  | pin => rw [mrBegin_pin (s := s.withMu v) hv]; exact ⟨.mrPin _ _ rfl hv, _, _, rfl⟩
  | txn => rw [mrBegin_txn (s := s.withMu v) hv]; exact ⟨.mrTxn _ _ rfl hv, _, _, rfl⟩

/-- From its loop LMW completes, or writes what MW writes in its first segment. -/
theorem lmwContinue_writes {l : Link × Bool} (hs : lmwContinue l s = .next t) :
    (s.withMu { s.mu with phase := .mw .start }).MasterWrites t ∧ t.mu.link = l.1 ∧
      t.mu.port.todo = s.mu.port.todo ∧ t.mu.q = s.mu.q := by
  unfold lmwContinue at hs
  split at hs
  · cases hs
    obtain ⟨hw, ph, w, hmu⟩ := mwBegin_writes s { s.mu with link := l.1, a := l.1.laddr, d := l.1.acc }
    exact ⟨hw, by rw [hmu], by rw [hmu], by rw [hmu]⟩
  · cases hs
    exact ⟨.own _ (by simp), rfl, rfl, rfl⟩

/-- From its loop LMR completes, or writes what MR writes in its first segment. -/
theorem lmrContinue_writes {l : Link × Bool} (hs : lmrContinue l s = .next t) :
    (s.withMu { s.mu with phase := .mr .start }).MasterWrites t ∧ t.mu.link = l.1 ∧
      t.mu.port.todo = s.mu.port.todo ∧ t.mu.d = s.mu.d := by
  unfold lmrContinue at hs
  split at hs
  · cases hs
    obtain ⟨hw, ph, w, hmu⟩ := mrBegin_writes s { s.mu with link := l.1, a := l.1.laddr }
    exact ⟨hw, by rw [hmu], by rw [hmu], by rw [hmu]⟩
  · cases hs
    exact ⟨.own _ (by simp), rfl, rfl, rfl⟩

/-- The registers of `MU` that a move of LMW or LMR outside the loop keeps. -/
def MasterUnit.KeepsInCall (u v : MasterUnit) : Prop :=
  v.a = u.a ∧ v.d = u.d ∧ (u.phase ≠ .idle → v.lop = u.lop ∧ v.link = u.link) ∧
  (u.phase ∈ [.idle, .mw .hold, .mw .waitRel, .mr .hold, .mr .waitRel] → v.q = u.q)

/-- What a move of LMW or LMR writes, `p` being where its calls start: in one go, at issue with a length drawn where it
needs one; or first what ends the called operation and then, from the loop, what the next call begins with. -/
inductive State.LinkWrites (s : State) (p : MasterPhase) (t : State) : Prop
  | once (x : Nat) (hx : s.mu.phase ≠ .idle → x = s.drawn) (hw : { s with drawn := x }.MasterWrites t)
      (hk : s.mu.KeepsInCall t.mu)
  | loop (r : State) (hl : s.mu.phase.loops s.bus.ack = true) (hr : s.MasterWrites r)
      (hw : (r.withMu { r.mu with phase := p }).MasterWrites t)

theorem execLmw_writes {a : Addr} {n : Len} (hs : execLmw a n s = .next t) :
    s.LinkWrites (.mw .start) t ∧ t.mu.port.todo = s.mu.port.todo ∧ t.mu.q = s.mu.q ∧
      (s.mu.phase ≠ .idle → s.mu.link.SameBuffer t.mu.link) := by
  obtain ⟨-, ⟨hp, -, rfl⟩ | ⟨hp, -, -, hc⟩ | ⟨p, hp, -, -, hm⟩⟩ := execLmw_next.mp hs
  · exact ⟨.once (s.drawLength n).drawn (absurd hp) (.own _ (by simp [hp])) ⟨rfl, rfl, absurd hp, fun _ => rfl⟩, rfl, rfl,
      absurd hp⟩
  · obtain ⟨hw, hlink, htodo, hq⟩ := lmwContinue_writes hc
    exact ⟨.loop _ (by rw [hp]; rfl) (.own _ (by simp [hp])) hw, htodo, hq,
      fun _ => hlink ▸ s.mu.link.writeEntry_sameBuffer⟩
  · cases hl : s.mu.phase.loops s.bus.ack with
    | false =>
      obtain ⟨hw, ph, w, hmu⟩ := mwSegment_inside (s := s.withMu { s.mu with susp := .none }) hp hl hm
      refine ⟨.once s.drawn (fun _ => rfl) hw.of_runStart ?_, ?_⟩
      · rw [hmu]
        exact ⟨rfl, rfl, fun _ => ⟨rfl, rfl⟩, fun _ => rfl⟩
      · rw [hmu]
        exact ⟨rfl, rfl, fun _ => ⟨rfl, rfl, rfl⟩⟩
    | true =>
      obtain ⟨r, ph, hr, hmu, he⟩ := mwSegment_returns (s := s.withMu { s.mu with susp := .none }) hp hl
      have hc : lmwReturn r = .next t := (he _).symm.trans hm
      obtain ⟨hw, hlink, htodo, hq⟩ := lmwContinue_writes hc
      rw [hmu] at hlink htodo hq
      exact ⟨.loop r hl hr.of_runStart hw, htodo, hq, fun _ => hlink ▸ s.mu.link.writeReturn_sameBuffer⟩

theorem execLmr_writes {a : Addr} {n : Len} (hs : execLmr a n s = .next t) :
    s.LinkWrites (.mr .start) t ∧ t.mu.port.todo = s.mu.port.todo ∧ t.mu.d = s.mu.d ∧
      (s.mu.phase ≠ .idle → s.mu.link.KeepsOutside s.cfg.dataWidth t.mu.link) ∧ s.mu.phase ≠ .mw .start := by
  obtain ⟨-, ⟨hp, -, rfl⟩ | ⟨hp, -, -, hc⟩ | ⟨p, hp, -, -, hm⟩⟩ := execLmr_next.mp hs
  · exact ⟨.once (s.drawLength n).drawn (absurd hp) (.own _ (by simp [hp])) ⟨rfl, rfl, absurd hp, fun _ => rfl⟩, rfl, rfl,
      absurd hp, by simp [hp]⟩
  · obtain ⟨hw, hlink, htodo, hd⟩ := lmrContinue_writes hc
    exact ⟨.loop _ (by rw [hp]; rfl) (.own _ (by simp [hp])) hw, htodo, hd,
      fun _ => hlink ▸ s.mu.link.readEntry_keepsOutside, by simp [hp]⟩
  · cases hl : s.mu.phase.loops s.bus.ack with
    | false =>
      obtain ⟨hw, ⟨ph, w, q, hmu⟩, hq⟩ := mrSegment_inside (s := s.withMu { s.mu with susp := .none }) hp hl hm
      refine ⟨.once s.drawn (fun _ => rfl) hw.of_runStart ?_, ?_⟩
      · refine ⟨by rw [hmu]; rfl, by rw [hmu]; rfl, fun _ => by rw [hmu]; exact ⟨rfl, rfl⟩, fun hmem => hq ?_⟩
        simpa [hp] using hmem
      · rw [hmu]
        exact ⟨rfl, rfl, fun _ => .refl _, by simp [hp]⟩
    | true =>
      obtain ⟨r, ph, hr, hmu, he⟩ := mrSegment_returns (s := s.withMu { s.mu with susp := .none }) hp hl
      have hc : lmrReturn r = .next t := (he _).symm.trans hm
      obtain ⟨hw, hlink, htodo, hd⟩ := lmrContinue_writes hc
      have hcfg : r.cfg = s.cfg := hr.cfg_eq
      rw [hmu, hcfg] at hlink
      rw [hmu] at htodo hd
      exact ⟨.loop r hl hr.of_runStart hw, htodo, hd, fun _ => hlink ▸ s.mu.link.readReturn_keepsOutside s.mu.q,
        by simp [hp]⟩

/-! The frame, read off the writes part by part. -/

/-- An issue to `MU` writes nothing of the bus. -/
theorem State.MasterWrites.idle (h : s.MasterWrites t) (hp : s.mu.phase = .idle) :
    t.bus = s.bus ∧ t.txn = s.txn ∧ t.served = s.served := by
  cases h with
  | own => exact ⟨rfl, rfl, rfl⟩
  | ready b v hn => simp [hp] at hn
  | mwPin a d v hn | mwTxn a d v hn => cases hp.symm.trans hn
  | mrPin a v hn | mrTxn a v hn => cases hp.symm.trans hn
  | wake v hn => simp [hp] at hn

theorem MasterPhase.loops_eq_false {p : MasterPhase} {ack : Bool}
    (h : p ∈ [.idle, .mw .start, .mw .setup, .mw .waitAck, .mw .txnSetup, .mw .txnWaitAck,
      .mr .start, .mr .setup, .mr .waitAck, .mr .txnSetup, .mr .txnWaitAck]) : p.loops ack = false := by
  cases p with
  | idle => rfl
  | mw q => cases q <;> simp_all [MasterPhase.loops]
  | mr q => cases q <;> simp_all [MasterPhase.loops]
  | lmwStart => simp at h
  | lmrStart => simp at h

namespace State.LinkWrites

variable {p : MasterPhase}

theorem fixed (h : s.LinkWrites p t) :
    t.cfg = s.cfg ∧ t.now = s.now ∧ t.intr = s.intr ∧ t.sel = s.sel ∧ t.handed = s.handed ∧ t.agenda = s.agenda ∧
      t.tick = s.tick ∧ (s.mu.phase ≠ .idle → t.drawn = s.drawn) ∧ t.bus.ack = s.bus.ack := by
  cases h with
  | once x hx hw =>
    obtain ⟨h1, h2, h3, h4, h5, h6, h7, h8, h9⟩ := hw.fixed
    exact ⟨h1, h2, h3, h4, h5, h6, h7, fun hp => h8.trans (hx hp), h9⟩
  | loop r hl hr hw =>
    obtain ⟨h1, h2, h3, h4, h5, h6, h7, h8, h9⟩ := hr.fixed
    obtain ⟨g1, g2, g3, g4, g5, g6, g7, g8, g9⟩ := hw.fixed
    exact ⟨g1.trans h1, g2.trans h2, g3.trans h3, g4.trans h4, g5.trans h5, g6.trans h6, g7.trans h7,
      fun _ => g8.trans h8, g9.trans h9⟩

theorem pin (h : s.LinkWrites p t) (hc : s.cfg.variant = .pin) : t.txn = s.txn := by
  cases h with
  | once x hx hw => exact hw.pin hc
  | loop r hl hr hw => exact (hw.pin (hr.cfg_eq.symm ▸ hc)).trans (hr.pin hc)

theorem txn (h : s.LinkWrites p t) (hc : s.cfg.variant = .txn) :
    t.bus.address = s.bus.address ∧ t.bus.data = s.bus.data := by
  cases h with
  | once x hx hw => exact hw.txn hc
  | loop r hl hr hw =>
    obtain ⟨ha, hd⟩ := hr.txn hc
    obtain ⟨ha', hd'⟩ := hw.txn (hr.cfg_eq.symm ▸ hc)
    exact ⟨ha'.trans ha, hd'.trans hd⟩

theorem inside (h : s.LinkWrites p t) (hp : s.mu.phase ∈ [.mw .setup, .mw .waitAck, .mw .txnSetup, .mw .txnWaitAck,
      .mr .setup, .mr .waitAck, .mr .txnSetup, .mr .txnWaitAck]) :
    t.bus.address = s.bus.address ∧ t.bus.data = s.bus.data ∧ t.txn = s.txn ∧ t.served = s.served ∧
      t.mu.a = s.mu.a ∧ t.mu.d = s.mu.d ∧ t.mu.lop = s.mu.lop ∧ t.mu.link = s.mu.link := by
  have hl' : s.mu.phase.loops s.bus.ack = false := MasterPhase.loops_eq_false (by simp at hp ⊢; tauto)
  cases h with
  | once x hx hw hk =>
    obtain ⟨ha, hd, hcall, -⟩ := hk
    obtain ⟨hlop, hlink⟩ := hcall fun h => by simp [h] at hp
    have hmw : s.mu.phase ≠ .mw .start := fun h => by simp [h] at hp
    have hmr : s.mu.phase ≠ .mr .start := fun h => by simp [h] at hp
    obtain ⟨h1, h2, h3, h4⟩ := hw.cells hmw hmr
    exact ⟨h1, h2, h3, h4, ha, hd, hlop, hlink⟩
  | loop r hl => cases hl.symm.trans hl'

theorem held (h : s.LinkWrites p t) (hp : s.mu.phase ∈ [.mw .hold, .mw .waitRel, .mr .hold, .mr .waitRel])
    (ha : s.bus.ack = true) :
    t.bus.address = s.bus.address ∧ t.bus.data = s.bus.data ∧ t.txn = s.txn ∧ t.served = s.served ∧
      t.mu.a = s.mu.a ∧ t.mu.d = s.mu.d ∧ t.mu.q = s.mu.q ∧ t.mu.lop = s.mu.lop ∧ t.mu.link = s.mu.link := by
  cases h with
  | once x hx hw hk =>
    obtain ⟨hadr, hd, hcall, hq⟩ := hk
    obtain ⟨hlop, hlink⟩ := hcall fun h => by simp [h] at hp
    have hmw : s.mu.phase ≠ .mw .start := fun h => by simp [h] at hp
    have hmr : s.mu.phase ≠ .mr .start := fun h => by simp [h] at hp
    obtain ⟨h1, h2, h3, h4⟩ := hw.cells hmw hmr
    exact ⟨h1, h2, h3, h4, hadr, hd, hq (List.mem_cons_of_mem _ hp), hlop, hlink⟩
  | loop r hl =>
    rw [ha] at hl
    simp only [List.mem_cons, List.not_mem_nil, or_false] at hp
    rcases hp with hp | hp | hp | hp <;> rw [hp] at hl <;> cases hl

theorem idle (h : s.LinkWrites p t) (hp : s.mu.phase = .idle) :
    t.bus = s.bus ∧ t.txn = s.txn ∧ t.served = s.served ∧ t.mu.a = s.mu.a ∧ t.mu.d = s.mu.d ∧ t.mu.q = s.mu.q := by
  cases h with
  | once x hx hw hk =>
    obtain ⟨ha, hd, -, hq⟩ := hk
    obtain ⟨h1, h2, h3⟩ := hw.idle hp
    exact ⟨h1, h2, h3, ha, hd, hq (by simp [hp])⟩
  | loop r hl => rw [hp] at hl; cases hl

theorem woken (h : s.LinkWrites p t) (hp : s.mu.phase = .mw .txnSetup ∨ s.mu.phase = .mr .txnSetup) :
    t.su = (s.notify .readyNotice).su ∧ t.snd = (s.notify .readyNotice).snd ∧ t.rcv = (s.notify .readyNotice).rcv := by
  cases h with
  | once x hx hw => exact hw.woken hp
  | loop r hl => rcases hp with hp | hp <;> rw [hp] at hl <;> cases hl

theorem data (h : s.LinkWrites (.mr .start) t) (hp : s.mu.phase ≠ .mw .start) :
    t.bus.data = s.bus.data ∧ t.txn.pendingData = s.txn.pendingData := by
  cases h with
  | once x hx hw => exact hw.data hp
  | loop r hl hr hw =>
    obtain ⟨hd, hn⟩ := hr.data hp
    obtain ⟨hd', hn'⟩ := hw.data (by simp)
    exact ⟨hd'.trans hd, hn'.trans hn⟩

section
variable (hp : p = .mw .start ∨ p = .mr .start)
include hp

theorem line (h : s.LinkWrites p t) (hr : s.mu.phase ∉ [.mw .setup, .mw .hold, .mr .setup, .mr .hold]) :
    t.bus.ready = s.bus.ready := by
  cases h with
  | once x hx hw => exact hw.line hr
  | loop r hl hr' hw => exact (hw.line (by rcases hp with rfl | rfl <;> simp)).trans (hr'.line hr)

theorem others (h : s.LinkWrites p t) (hw : s.mu.phase ≠ .mw .txnSetup) (hr : s.mu.phase ≠ .mr .txnSetup) :
    t.su = s.su ∧ t.snd = s.snd ∧ t.rcv = s.rcv := by
  cases h with
  | once x hx hw' => exact hw'.others hw hr
  | loop r hl hr' hw' =>
    obtain ⟨h1, h2, h3⟩ := hr'.others hw hr
    obtain ⟨g1, g2, g3⟩ := hw'.others (by rcases hp with rfl | rfl <;> simp) (by rcases hp with rfl | rfl <;> simp)
    exact ⟨g1.trans h1, g2.trans h2, g3.trans h3⟩

end

end State.LinkWrites

/-- Settles O48: what LMW and LMR write, the registers of `MU` they keep, and what their loops leave of the buffer. -/
theorem masterLinkFrame : Obligations.MasterLinkFrame := by
  intro s t i hi he
  obtain ⟨p, hp, hw, htodo, hlmr, hlmw, hlink⟩ : ∃ p, (p = .mw .start ∨ p = .mr .start) ∧ s.LinkWrites p t ∧
      t.mu.port.todo = s.mu.port.todo ∧
      ((∃ a n, i = .lmr a n) → t.bus.data = s.bus.data ∧ t.txn.pendingData = s.txn.pendingData ∧ t.mu.d = s.mu.d) ∧
      ((∃ a n, i = .lmw a n) → t.mu.q = s.mu.q ∧ (s.mu.phase ≠ .idle → t.mu.link.buf = s.mu.link.buf)) ∧
      (s.mu.phase ≠ .idle → s.mu.link.KeepsOutside s.cfg.dataWidth t.mu.link) := by
    rcases hi with ⟨a, n, rfl⟩ | ⟨a, n, rfl⟩
    · obtain ⟨hw, htodo, hq, hlink⟩ := execLmw_writes he
      exact ⟨_, .inl rfl, hw, htodo, nofun, fun _ => ⟨hq, fun hp => (hlink hp).buf⟩, fun hp => (hlink hp).keepsOutside⟩
    · obtain ⟨hw, htodo, hd, hlink, hp⟩ := execLmr_writes he
      obtain ⟨hdata, hpend⟩ := hw.data hp
      exact ⟨_, .inr rfl, hw, htodo, fun _ => ⟨hdata, hpend, hd⟩, nofun, hlink⟩
  obtain ⟨hcfg, hnow, hintr, hsel, hhanded, hagenda, htick, hdrawn, hack⟩ := hw.fixed
  refine ⟨hcfg, hnow, hintr, hsel, hhanded, hagenda, htick, hdrawn, hack, htodo, hw.pin, hw.txn, hw.line hp, hw.inside,
    hw.held, hw.idle, hw.others hp, hw.woken, hlmr, fun hi => (hlmw hi).1, fun hne => ?_⟩
  have hk := hlink hne
  exact ⟨hk.laddr, hk.len, hk.size, fun hi => (hlmw hi).2 hne, hk.read⟩

end Sys2Proof.Machine
end

section
/-! The frames of LSW and LSR (43_media_access.md R121, R127, R128; 20_memory.md R40), as those of LMW and LMR. -/

namespace Sys2Proof.Machine

variable {s t : State} {k : Nat} {u v : SlaveUnit}

/-- A segment of SR or SW stays inside it, or ends it and returns. -/
theorem slaveSegment_cases {ret : SlaveUnit → State → Answer} {p : SlavePoint} (hp : u.phase = .word p)
    (hs : slaveSegment k ret p u s = .next t) :
    (∃ v, s.SlaveWrites k u v t ∧ u.MovesTo v) ∨
    (p = .ackRel ∧ ret u (s.driveAck false) = .next t) ∨ (p = .txnAckRel ∧ ret u (s.notify .ackNotice) = .next t) := by
  by_cases hack : p = .ackRel
  · subst hack
    exact .inr (.inl ⟨rfl, hs⟩)
  by_cases hnotice : p = .txnAckRel
  · subst hnotice
    exact .inr (.inr ⟨rfl, hs⟩)
  have hs' : slaveSegment k (fun _ _ => .refused .busy) p u s = .next t := by
    cases p with
    | ackRel => exact absurd rfl hack
    | txnAckRel => exact absurd rfl hnotice
    | start | waitReady | backoff | service | waitRel | txnWaitReady | txnService => exact hs
  obtain hw | ⟨r, -, hr⟩ := slaveSegment_writes hp hs'
  · exact .inl hw
  · cases hr

/-- A called SR or SW begins so, whatever the unit was before. -/
theorem slaveBegin_writes (hs : slaveBegin k u (s.withSu k v) = .next t) :
    ∃ w, (s.withSu k { u with phase := .word .start }).SlaveWrites k { u with phase := .word .start } w t ∧ u.MovesTo w := by
  have hb : slaveBegin k { u with phase := .word .start } (s.withSu k { u with phase := .word .start }) = .next t := by
    rw [slaveBegin_withSu, ← slaveBegin_withSu (v := v) s u.phase]
    exact hs
  obtain ⟨w, hw, hm⟩ | ⟨r, -, hr⟩ :=
    slaveSegment_writes (ret := fun _ _ => .refused .busy) (u := { u with phase := .word .start }) rfl hb
  · exact ⟨w, hw, hm⟩
  · cases hr

/-- The registers of `SU[k]` that a move of LSW or LSR outside the loop keeps. -/
def SlaveUnit.KeepsInCall (u v : SlaveUnit) : Prop :=
  v.a = u.a ∧ v.d = u.d ∧ v.dir = u.dir ∧ (u.phase = .idle → v.q = u.q) ∧
  (u.phase ≠ .idle → v.lop = u.lop ∧ v.link = u.link)

/-- What a move of LSW or LSR on `SU[k]` writes, which becomes `v`, `dir` being the direction of its calls: in one go, at
issue with a length drawn where it needs one; or first what ends the called operation, which leaves the state `b`, and then,
from the loop, what the next call begins with. -/
inductive State.SlaveLinkWrites (s : State) (k : Nat) (u : SlaveUnit) (dir : SlaveDir) (v : SlaveUnit) (t : State) : Prop
  | once (x : Nat) (hx : u.phase ≠ .idle → x = s.drawn) (hw : { s with drawn := x }.SlaveWrites k u v t)
      (hk : u.KeepsInCall v) (hd : u.phase ≠ .idle → u.LopFits → u.dir = dir)
  | loop (b : State) (w : SlaveUnit) (hp : u.phase ∈ [.lswStart, .lsrStart, .word .ackRel, .word .txnAckRel])
      (hb : s.SlaveWrites k u w b) (hs : w.phase = .word .start) (hd : w.dir = dir) (hw : b.SlaveWrites k w v t)

/-- What brings `SU[k]` to its loop writes nothing but `ack` or the waits for `ackNotice`. -/
theorem State.GoesOn.writes {b : State} {start : SlavePhase} {entry back r : Link × Bool}
    (h : s.GoesOn b u start entry back r) (hs : start = .lswStart ∨ start = .lsrStart) :
    u.phase ∈ [.lswStart, .lsrStart, .word .ackRel, .word .txnAckRel] ∧ ∀ w, s.SlaveWrites k u w (b.withSu k w) := by
  rcases h with ⟨hp, -, rfl⟩ | ⟨hp, -, rfl⟩ | ⟨hp, -, rfl⟩
  · rcases hs with rfl | rfl
    · exact ⟨by simp [hp], fun w => .own (by simp [hp])⟩
    · exact ⟨by simp [hp], fun w => .own (by simp [hp])⟩
  · exact ⟨by simp [hp], fun w => .ack false (.inr hp)⟩
  · exact ⟨by simp [hp], fun w => .wake hp⟩

/-- From its loop LSW or LSR completes, or writes what SW or SR, with the direction `dir` and the word `d`, writes in its
first segment. -/
theorem State.GoesOn.loop {b : State} {start : SlavePhase} {entry back l : Link × Bool} {dir : SlaveDir} {d : Word}
    {res : Result} (h : s.GoesOn b u start entry back l) (hst : start = .lswStart ∨ start = .lsrStart)
    (hs : (if l.2 then slaveBegin k { u with susp := .none, link := l.1, a := l.1.laddr, dir := dir, d := d }
        (b.withSu k { u with susp := .none })
      else completeSlave k res { u with susp := .none, link := l.1 } (b.withSu k { u with susp := .none })) = .next t) :
    ∃ v, s.SlaveLinkWrites k u dir v t ∧ v.link = l.1 ∧ v.port.todo = u.port.todo ∧ (v.d = d ∨ v.d = u.d) ∧
      (dir = .drive → v.q = u.q) := by
  obtain ⟨hp, hb⟩ := h.writes (k := k) hst
  split at hs
  · obtain ⟨v, hw, ph, x, q, rfl, hq⟩ := slaveBegin_writes hs
    exact ⟨_, .loop _ _ hp (hb _) rfl rfl hw, rfl, rfl, .inl rfl, hq⟩
  · have ht := completeSlave_next.mp hs
    rw [State.withSu_withSu, ← b.withSu_withSu k { u with phase := .word .start, dir := dir }] at ht
    subst ht
    exact ⟨_, .loop _ { u with phase := .word .start, dir := dir } hp (hb _) rfl rfl (.own (by simp)), rfl, rfl, .inr rfl,
      fun _ => rfl⟩

/-- What a move of LSW writes, and the registers of `SU[k]` it keeps. -/
def State.LswMoves (s : State) (k : Nat) (u : SlaveUnit) (t : State) : Prop :=
  ∃ v, s.SlaveLinkWrites k u .drive v t ∧ v.port.todo = u.port.todo ∧ (u.LopFits → v.q = u.q) ∧
    (u.phase ≠ .idle → u.link.SameBuffer v.link)

/-- What a move of LSR writes, and the registers of `SU[k]` it keeps. -/
def State.LsrMoves (s : State) (k : Nat) (u : SlaveUnit) (t : State) : Prop :=
  ∃ v, s.SlaveLinkWrites k u .capture v t ∧ v.port.todo = u.port.todo ∧ v.d = u.d ∧
    (u.phase ≠ .idle → u.link.KeepsOutside s.cfg.dataWidth v.link)

theorem State.GoesOn.lswMoves {b : State} {l : Link × Bool}
    (h : s.GoesOn b u .lswStart (u.link.writeEntry s.cfg.dataWidth) (u.link.writeReturn s.cfg.dataWidth) l)
    (hs : lswContinue k l { u with susp := .none } (b.withSu k { u with susp := .none }) = .next t) :
    s.LswMoves k u t := by
  obtain ⟨v, hw, hlink, htodo, -, hq⟩ := h.loop (.inl rfl) hs
  refine ⟨v, hw, htodo, fun _ => hq rfl, fun _ => ?_⟩
  rw [hlink]
  rcases h with ⟨-, rfl, -⟩ | ⟨-, rfl, -⟩ | ⟨-, rfl, -⟩
  · exact u.link.writeEntry_sameBuffer
  · exact u.link.writeReturn_sameBuffer
  · exact u.link.writeReturn_sameBuffer

theorem State.GoesOn.lsrMoves {b : State} {l : Link × Bool}
    (h : s.GoesOn b u .lsrStart (u.link.readEntry s.cfg.dataWidth) (u.link.readReturn s.cfg.dataWidth u.q) l)
    (hs : lsrContinue k l { u with susp := .none } (b.withSu k { u with susp := .none }) = .next t) :
    s.LsrMoves k u t := by
  obtain ⟨v, hw, hlink, htodo, hd, -⟩ := h.loop (d := u.d) (.inr rfl) hs
  refine ⟨v, hw, htodo, hd.elim id id, fun _ => ?_⟩
  rw [hlink]
  rcases h with ⟨-, rfl, -⟩ | ⟨-, rfl, -⟩ | ⟨-, rfl, -⟩
  · exact u.link.readEntry_keepsOutside
  · exact u.link.readReturn_keepsOutside u.q
  · exact u.link.readReturn_keepsOutside u.q

theorem execLsw_moves {a : Addr} {n : Len} (hsel : s.sel = .su k) (hk : s.su[k]? = some u)
    (hs : execLsw a n s = .next t) : s.LswMoves k u t := by
  obtain ⟨k', u', hsel', hk', hc⟩ := execLsw_next.mp hs
  cases hsel.symm.trans hsel'
  cases hk.symm.trans hk'
  rcases hc with ⟨hp, -, rfl⟩ | ⟨hp, -, -, hl⟩ | ⟨p, hp, hi, -, hm⟩
  · exact ⟨_, .once (s.drawLength n).drawn (absurd hp) (.own (by simp [hp])) ⟨rfl, rfl, rfl, fun _ => rfl, absurd hp⟩
      (absurd hp), rfl, fun _ => rfl, absurd hp⟩
  · exact State.GoesOn.lswMoves (.inl ⟨hp, rfl, rfl⟩) hl
  · rcases slaveSegment_cases (u := { u with susp := .none }) hp hm with ⟨v, hw, hv⟩ | ⟨rfl, hr⟩ | ⟨rfl, hr⟩
    · have hne : u.phase ≠ .idle := by simp [hp]
      have hdir : u.LopFits → u.dir = .drive := fun ⟨_, _, _, hdrive, _⟩ => by
        obtain ⟨hop, -⟩ := SlaveUnit.current_lsw hi
        exact hdrive (by rw [hp]; rfl) (by simpa [hp] using hop)
      obtain ⟨ph, x, q, rfl, hq⟩ := hv
      exact ⟨_, .once s.drawn (fun _ => rfl) hw.of_runStart ⟨rfl, rfl, rfl, fun h => absurd h hne, fun _ => ⟨rfl, rfl⟩⟩
        (fun _ => hdir), rfl, fun h => hq (hdir h), fun _ => ⟨rfl, rfl, rfl⟩⟩
    · exact State.GoesOn.lswMoves (.inr (.inl ⟨hp, rfl, rfl⟩)) hr
    · rw [State.notify_withSu_running] at hr
      exact State.GoesOn.lswMoves (.inr (.inr ⟨hp, rfl, rfl⟩)) hr

theorem execLsr_moves {a : Addr} {n : Len} (hsel : s.sel = .su k) (hk : s.su[k]? = some u)
    (hs : execLsr a n s = .next t) : s.LsrMoves k u t := by
  obtain ⟨k', u', hsel', hk', hc⟩ := execLsr_next.mp hs
  cases hsel.symm.trans hsel'
  cases hk.symm.trans hk'
  rcases hc with ⟨hp, -, rfl⟩ | ⟨hp, -, -, hl⟩ | ⟨p, hp, hi, -, hm⟩
  · exact ⟨_, .once (s.drawLength n).drawn (absurd hp) (.own (by simp [hp])) ⟨rfl, rfl, rfl, fun _ => rfl, absurd hp⟩
      (absurd hp), rfl, rfl, absurd hp⟩
  · exact State.GoesOn.lsrMoves (.inl ⟨hp, rfl, rfl⟩) hl
  · rcases slaveSegment_cases (u := { u with susp := .none }) hp hm with ⟨v, hw, hv⟩ | ⟨rfl, hr⟩ | ⟨rfl, hr⟩
    · have hne : u.phase ≠ .idle := by simp [hp]
      have hdir : u.LopFits → u.dir = .capture := fun ⟨_, _, _, _, hcapture⟩ => by
        obtain ⟨hop, -⟩ := SlaveUnit.current_lsr hi
        exact hcapture (by rw [hp]; rfl) (by simpa [hp] using hop)
      obtain ⟨ph, x, q, rfl, -⟩ := hv
      exact ⟨_, .once s.drawn (fun _ => rfl) hw.of_runStart ⟨rfl, rfl, rfl, fun h => absurd h hne, fun _ => ⟨rfl, rfl⟩⟩
        (fun _ => hdir), rfl, rfl, fun _ => .refl _⟩
    · exact State.GoesOn.lsrMoves (.inr (.inl ⟨hp, rfl, rfl⟩)) hr
    · rw [State.notify_withSu_running] at hr
      exact State.GoesOn.lsrMoves (.inr (.inr ⟨hp, rfl, rfl⟩)) hr

/-! The frame, read off the writes part by part. -/

namespace State.SlaveWrites

/-- What brings a unit to its loop writes no data cell. -/
theorem loopCells (h : s.SlaveWrites k u v t) (hp : u.phase ∈ [.lswStart, .lsrStart, .word .ackRel, .word .txnAckRel]) :
    t.bus.data = s.bus.data ∧ t.txn = s.txn := by
  cases h with
  | own | ack | capture | wake => exact ⟨rfl, rfl⟩
  | drivePin d hn => simp at hp hn; rcases hp with hp | hp | hp | hp <;> simp [hp] at hn
  | driveTxn d hn => simp [hn] at hp

/-- An issue writes nothing of the bus. -/
theorem idle (h : s.SlaveWrites k u v t) (hp : u.phase = .idle) : t.bus = s.bus ∧ t.txn = s.txn := by
  cases h with
  | own | capture => exact ⟨rfl, rfl⟩
  | wake => exact ⟨rfl, rfl⟩
  | ack b hn => simp [hp] at hn
  | drivePin d hn => simp [hp] at hn
  | driveTxn d hn => cases hp.symm.trans hn

end State.SlaveWrites

namespace State.SlaveLinkWrites

variable {dir : SlaveDir}

theorem fixed (h : s.SlaveLinkWrites k u dir v t) :
    t.cfg = s.cfg ∧ t.now = s.now ∧ t.intr = s.intr ∧ t.sel = s.sel ∧ t.handed = s.handed ∧ t.agenda = s.agenda ∧
      t.tick = s.tick ∧ (u.phase ≠ .idle → t.drawn = s.drawn) ∧ t.bus.ready = s.bus.ready ∧
      t.bus.address = s.bus.address ∧ t.txn.pendingAddress = s.txn.pendingAddress := by
  cases h with
  | once x hx hw =>
    obtain ⟨h1, h2, h3, h4, h5, h6, h7, h8, h9, h10, h11⟩ := hw.fixed
    exact ⟨h1, h2, h3, h4, h5, h6, h7, fun hp => h8.trans (hx hp), h9, h10, h11⟩
  | loop b w hp hb hs hd hw =>
    obtain ⟨h1, h2, h3, h4, h5, h6, h7, h8, h9, h10, h11⟩ := hb.fixed
    obtain ⟨g1, g2, g3, g4, g5, g6, g7, g8, g9, g10, g11⟩ := hw.fixed
    exact ⟨g1.trans h1, g2.trans h2, g3.trans h3, g4.trans h4, g5.trans h5, g6.trans h6, g7.trans h7,
      fun _ => g8.trans h8, g9.trans h9, g10.trans h10, g11.trans h11⟩

theorem cells (h : s.SlaveLinkWrites k u .capture v t) (hf : u.LopFits) :
    t.bus.data = s.bus.data ∧ t.txn = s.txn := by
  cases h with
  | once x hx hw hk hd => exact hw.cells fun hp => hd hp hf
  | loop b w hp hb hs hd hw =>
    obtain ⟨h1, h2⟩ := hb.loopCells hp
    obtain ⟨g1, g2⟩ := hw.cells fun _ => hd
    exact ⟨g1.trans h1, g2.trans h2⟩

theorem data (h : s.SlaveLinkWrites k u dir v t) (hr : s.bus.ready = false) : t.bus.data = s.bus.data := by
  cases h with
  | once x hx hw => exact hw.data hr
  | loop b w hp hb hs hd hw =>
    obtain ⟨-, -, -, -, -, -, -, -, hready, -⟩ := hb.fixed
    exact (hw.data (hready.trans hr)).trans (hb.data hr)

theorem pin (h : s.SlaveLinkWrites k u dir v t) (hu : u.phase.isPin = true) : t.txn = s.txn := by
  cases h with
  | once x hx hw => exact hw.pin hu
  | loop b w hp hb hs hd hw => exact (hw.pin (by rw [hs]; rfl)).trans (hb.pin hu)

theorem txn (h : s.SlaveLinkWrites k u dir v t) (hc : s.cfg.variant = .txn) (hu : u.phase.isTxn = true) :
    t.bus = s.bus := by
  cases h with
  | once x hx hw => exact hw.txn hc hu
  | loop b w hp hb hs hd hw =>
    obtain ⟨hcfg, -⟩ := hb.fixed
    exact (hw.txn (hcfg ▸ hc) (by rw [hs]; rfl)).trans (hb.txn hc hu)

theorem line (h : s.SlaveLinkWrites k u dir v t) (hsv : u.phase ≠ .word .service) (har : u.phase ≠ .word .ackRel) :
    t.bus.ack = s.bus.ack := by
  cases h with
  | once x hx hw => exact hw.line hsv har
  | loop b w hp hb hs hd hw => exact (hw.line (by simp [hs]) (by simp [hs])).trans (hb.line hsv har)

theorem served (h : s.SlaveLinkWrites k u dir v t) : t.served = s.served ∨ t.served = true := by
  cases h with
  | once x hx hw => exact hw.served
  | loop b w hp hb hs hd hw =>
    rcases hw.served with h | h
    · rw [h]
      exact hb.served
    · exact .inr h

theorem self (h : s.SlaveLinkWrites k u dir v t) (hk : s.su[k]? = some u) : t.su[k]? = some v := by
  cases h with
  | once x hx hw => exact hw.self hk
  | loop b w hp hb hs hd hw => exact hw.self (hb.self hk)

theorem idle (h : s.SlaveLinkWrites k u dir v t) (hp : u.phase = .idle) :
    v.a = u.a ∧ v.d = u.d ∧ v.q = u.q ∧ v.dir = u.dir ∧ t.bus = s.bus ∧ t.txn = s.txn := by
  cases h with
  | once x hx hw hk =>
    obtain ⟨ha, hd, hdir, hq, -⟩ := hk
    exact ⟨ha, hd, hq hp, hdir, hw.idle hp⟩
  | loop b w hl => simp [hp] at hl

theorem inside (h : s.SlaveLinkWrites k u dir v t) (p : SlavePoint) (hp : u.phase = .word p) (hack : p ≠ .ackRel)
    (hnotice : p ≠ .txnAckRel) :
    v.a = u.a ∧ v.d = u.d ∧ v.dir = u.dir ∧ v.lop = u.lop ∧ v.link = u.link := by
  cases h with
  | once x hx hw hk =>
    obtain ⟨ha, hd, hdir, -, hcall⟩ := hk
    exact ⟨ha, hd, hdir, hcall (by simp [hp])⟩
  | loop b w hl => simp [hp, hack, hnotice] at hl

theorem others (h : s.SlaveLinkWrites k u dir v t) (hp : u.phase ≠ .word .txnAckRel) :
    t.mu = s.mu ∧ t.snd = s.snd ∧ t.rcv = s.rcv ∧ ∀ m, m ≠ k → t.su[m]? = s.su[m]? := by
  cases h with
  | once x hx hw => exact hw.others hp
  | loop b w hl hb hs hd hw =>
    obtain ⟨h1, h2, h3, h4⟩ := hb.others hp
    obtain ⟨g1, g2, g3, g4⟩ := hw.others (by simp [hs])
    exact ⟨g1.trans h1, g2.trans h2, g3.trans h3, fun m hm => (g4 m hm).trans (h4 m hm)⟩

theorem woken (h : s.SlaveLinkWrites k u dir v t) (hp : u.phase = .word .txnAckRel) :
    t.mu = (s.notify .ackNotice).mu ∧ t.snd = (s.notify .ackNotice).snd ∧ t.rcv = (s.notify .ackNotice).rcv ∧
      ∀ m, m ≠ k → t.su[m]? = (s.notify .ackNotice).su[m]? := by
  cases h with
  | once x hx hw => exact hw.woken hp
  | loop b w hl hb hs hd hw =>
    obtain ⟨h1, h2, h3, h4⟩ := hb.woken hp
    obtain ⟨g1, g2, g3, g4⟩ := hw.others (by simp [hs])
    exact ⟨g1.trans h1, g2.trans h2, g3.trans h3, fun m hm => (g4 m hm).trans (h4 m hm)⟩

end State.SlaveLinkWrites

/-- Settles O49: what LSW and LSR write, the registers of `SU[k]` they keep, and what their loops leave of the buffer. -/
theorem slaveLinkFrame : Obligations.SlaveLinkFrame := by
  intro s t k u i hi hsel hk he
  obtain ⟨dir, v, hw, htodo, hcells, hlsr, hlsw, hlink⟩ : ∃ dir v, s.SlaveLinkWrites k u dir v t ∧
      v.port.todo = u.port.todo ∧
      ((∃ a n, i = .lsr a n) → u.LopFits → t.bus.data = s.bus.data ∧ t.txn = s.txn) ∧
      ((∃ a n, i = .lsr a n) → v.d = u.d) ∧
      ((∃ a n, i = .lsw a n) → (u.LopFits → v.q = u.q) ∧ (u.phase ≠ .idle → v.link.buf = u.link.buf)) ∧
      (u.phase ≠ .idle → u.link.KeepsOutside s.cfg.dataWidth v.link) := by
    rcases hi with ⟨a, n, rfl⟩ | ⟨a, n, rfl⟩
    · obtain ⟨v, hw, htodo, hq, hlink⟩ := execLsw_moves hsel hk he
      exact ⟨_, v, hw, htodo, nofun, nofun, fun _ => ⟨hq, fun hp => (hlink hp).buf⟩, fun hp => (hlink hp).keepsOutside⟩
    · obtain ⟨v, hw, htodo, hd, hlink⟩ := execLsr_moves hsel hk he
      exact ⟨_, v, hw, htodo, fun _ => hw.cells, fun _ => hd, nofun, hlink⟩
  obtain ⟨hcfg, hnow, hintr, hsel, hhanded, hagenda, htick, hdrawn, hready, haddr, hpend⟩ := hw.fixed
  refine ⟨hcfg, hnow, hintr, hsel, hhanded, hagenda, htick, hdrawn, hready, haddr, hpend, hcells, hw.data,
    fun _ => hw.pin, hw.txn, hw.line, hw.served,
    ⟨v, hw.self hk, htodo, hlsr, fun hi => (hlsw hi).1, hw.idle, hw.inside, fun hne => ?_⟩, hw.others, hw.woken⟩
  have hkeep := hlink hne
  exact ⟨hkeep.laddr, hkeep.len, hkeep.size, fun hi => (hlsw hi).2 hne, hkeep.read⟩

end Sys2Proof.Machine
end

section
/-! What ISEND and IRECV write (44_interrupt.md R135 to R139, R143): the line, the own unit and, at a rising edge, the
waits for it. -/

namespace Sys2Proof.Machine

variable {s t : State}

/-! ## ISEND -/

/-- A write of 1 while the line is 1 wakes nobody (40_execution_model.md R83). -/
theorem State.driveIntr_high (h : s.intr = true) : s.driveIntr true = s := by
  rw [s.driveIntr_quiet true (by simp [h]), ← h]

/-- From a line at 0 the pulse begins with the rising edge. -/
theorem pulseUp_rise (h : s.intr = false) :
    pulseUp s = .next { s.wake .edge with
      intr := true, snd := { s.snd with phase := .pulse, susp := .until (s.now + s.cfg.tPulse) } } := by
  simp only [pulseUp, s.driveIntr_rise h]
  rfl

theorem pulseUp_high (h : s.intr = true) :
    pulseUp s = .next { s with
      snd := { s.snd with phase := .pulse, susp := .until (s.now + s.cfg.tPulse) } } := by
  simp only [pulseUp, State.driveIntr_high h]
  rfl

theorem pulseDown_eq (s : State) :
    pulseDown s = .next { s with
      intr := false
      snd := { s.snd with
        phase := .idle, susp := .none, port := ⟨s.snd.port.todo, some ⟨s.now, .nothing⟩⟩ } } := by
  simp only [pulseDown, State.driveIntr_false]
  rfl

/-- A move of ISEND writes the line and the sender, and ends waits where it raises the line. -/
theorem execIsend_writes (h : execIsend s = .next t) :
    ∃ b v, (t = { s with intr := b, snd := v } ∨
        s.intr = false ∧ b = true ∧ t = { s.wake .edge with intr := b, snd := v }) ∧
      v.port.todo = s.snd.port.todo ∧ (s.PulseShown → b = (v.phase == .pulse)) := by
  obtain ⟨-, ⟨hp, rfl⟩ | ⟨-, -, hp⟩ | ⟨-, -, hp⟩⟩ := execIsend_next.mp h
  · exact ⟨s.intr, _, .inl rfl, rfl, fun hs => by rw [hs, hp]; rfl⟩
  · cases hi : s.intr with
    | false =>
      cases hp.symm.trans (pulseUp_rise hi)
      exact ⟨_, _, .inr ⟨rfl, rfl, rfl⟩, rfl, fun _ => rfl⟩
    | true =>
      cases hp.symm.trans (pulseUp_high hi)
      exact ⟨s.intr, _, .inl rfl, rfl, fun _ => hi⟩
  · cases hp.symm.trans (pulseDown_eq _)
    exact ⟨_, _, .inl rfl, rfl, fun _ => rfl⟩

/-- Settles O41: the issue, and the two segments of the pulse. -/
theorem sendIsAPulse : Obligations.SendIsAPulse := by
  refine fun s => ⟨fun ⟨hsel, hc⟩ => ?_, fun ⟨hsel, hc, he⟩ hp hi => ?_, fun ⟨hsel, hc, he⟩ hp hi => ?_,
    fun ⟨hsel, hc, he⟩ hp => ?_⟩
  · exact execIsend_next.mpr ⟨hsel, .inl ⟨s.snd.current_eq_none.mp hc, rfl⟩⟩
  · refine ⟨_, execIsend_next.mpr ⟨hsel, .inr (.inl ⟨hp, he, pulseUp_rise hi⟩)⟩, rfl, rfl, rfl, ?_, fun u hu => ?_,
      fun j u hj hpj hw => ?_⟩
    · obtain ⟨hmu, hsu, -, hrcv⟩ := s.wake_keepsAllButSusp .edge
      exact ⟨hmu, hsu, rfl, hrcv⟩
    · exact (congrArg Prod.fst ((s.wake .edge).view_withSnd_ne _ hu) :).trans (s.wake_suspOf .edge u)
    · simp [State.enabled, State.current, State.suspOf, hj, ReceiverUnit.current, hpj, hw, Susp.clear, Susp.met]
  · exact execIsend_next.mpr ⟨hsel, .inr (.inl ⟨hp, he, pulseUp_high hi⟩)⟩
  · exact execIsend_next.mpr ⟨hsel, .inr (.inr ⟨hp, he, pulseDown_eq _⟩)⟩

/-- Settles O43: the wake at the rising edge is lost. -/
theorem anUnseenPulseLeavesNoTrace : Obligations.AnUnseenPulseLeavesNoTrace := by
  intro s t hw h
  obtain ⟨b, v, rfl | ⟨-, -, rfl⟩, -⟩ := execIsend_writes h
  · rfl
  · rw [State.wake_of_waiters_eq_nil hw]

/-! ## IRECV -/

/-- Settles O42: the issue, the arming, and the completion once woken. -/
theorem receiveWaitsForAnEdge : Obligations.ReceiveWaitsForAnEdge := by
  refine fun s j u hj => ⟨fun ⟨hsel, hc⟩ => ?_, fun ⟨hsel, hc, he⟩ hp => ?_, fun ⟨hsel, hc, he⟩ hp => ?_⟩
  · have hp : u.phase = .idle := u.current_eq_none.mp (by simpa [State.current, hj] using hc)
    exact execIrecv_next.mpr ⟨j, u, hsel, hj, .inl ⟨hp, rfl⟩⟩
  · refine ⟨_, execIrecv_next.mpr ⟨j, u, hsel, hj, .inr (.inl ⟨hp, he, s.withRcv_withRcv j _ _⟩)⟩, rfl, ?_⟩
    obtain ⟨hlt, -⟩ := List.getElem?_eq_some_iff.mp hj
    simp [State.enabled, State.suspOf, State.withRcv, hlt, Susp.met]
  · exact execIrecv_next.mpr ⟨j, u, hsel, hj, .inr (.inr ⟨hp, he, s.withRcv_withRcv j _ _⟩)⟩

/-- A move of IRECV writes its own receiver, all but the hidden bit and the commands to come. -/
theorem execIrecv_writes (h : execIrecv s = .next t) :
    ∃ j u v, s.sel = .ir j ∧ s.rcv[j]? = some u ∧ t = s.withRcv j v ∧ v.prev = u.prev ∧
      v.port.todo = u.port.todo := by
  obtain ⟨j, u, hsel, hj, ⟨-, rfl⟩ | ⟨-, -, rfl⟩ | ⟨-, -, rfl⟩⟩ := execIrecv_next.mp h
  · exact ⟨j, u, _, hsel, hj, rfl, rfl, rfl⟩
  · exact ⟨j, u, _, hsel, hj, s.withRcv_withRcv j _ _, rfl, rfl⟩
  · exact ⟨j, u, _, hsel, hj, s.withRcv_withRcv j _ _, rfl, rfl⟩

/-- Settles O50: what ISEND and IRECV write. -/
theorem interruptFrame : Obligations.InterruptFrame := by
  refine ⟨fun s t h => ?_, fun s t h => ?_, fun s t => execIrecv_writes⟩
  · obtain ⟨b, v, rfl | ⟨hi, rfl, rfl⟩, -⟩ := execIsend_writes h
    · exact .inl rfl
    · exact .inr ⟨hi, rfl, rfl⟩
  · obtain ⟨b, v, rfl | ⟨-, -, rfl⟩, htodo, -⟩ := execIsend_writes h
    · exact ⟨rfl, rfl, rfl, rfl, ⟨rfl, rfl, rfl, rfl⟩, htodo⟩
    · obtain ⟨hmu, hsu, -, hrcv⟩ := s.wake_keepsAllButSusp .edge
      exact ⟨rfl, rfl, rfl, rfl, ⟨hmu, hsu, rfl, hrcv⟩, htodo⟩

end Sys2Proof.Machine
end

section
/-! The interrupt side along the steps (44_interrupt.md R136, R139, R140, R144). Only ISEND and IRECV change the line
and where the sender and the receivers stand (`exec_interrupt`), so the pulse shows on the line and an armed receiver
stays armed until it is woken. -/

namespace Sys2Proof.Machine

variable {s t : State} {j : Nat}

/-! ## The synchronous detector -/

/-- A multiple of the tick from `a` up to but not at `b` is a sampling point in that time. -/
theorem sampled_of_multiple {tick a b m : Nat} (ha : a ≤ m * tick) (hb : m * tick < b) (ht : 1 ≤ tick) :
    sampled tick a b = true := by
  have hm : (a + tick - 1) / tick ≤ m :=
    Nat.le_of_lt_succ ((Nat.div_lt_iff_lt_mul ht).mpr (by rw [Nat.succ_mul]; omega))
  exact decide_eq_true ((Nat.mul_le_mul_right tick hm).trans_lt hb)

/-- Settles O45: every receiver samples, armed or not. -/
theorem theClockedDetectorSeesOnlyEdges : Obligations.TheClockedDetectorSeesOnlyEdges := by
  intro s n m hc ha hb ht u hu
  rw [State.advance_rcv, List.mem_map] at hu
  obtain ⟨v, -, rfl⟩ := hu
  have hv : v.sample s.cfg s.intr s.now n = { v with prev := s.intr } :=
    if_pos (by rw [hc, sampled_of_multiple ha hb ht]; rfl)
  rw [hv]
  exact ⟨rfl, fun hi => by simp [ReceiverUnit.detects, hi], fun hi (hp : v.phase = .armed) => by
    simp [ReceiverUnit.detects, hi, hp]⟩

/-! ## What the other operations leave of the interrupt side -/

/-- Where a receiver stands: its phase and its completion indication. -/
def ReceiverUnit.stage (u : ReceiverUnit) : ReceiverPhase × Option Completion := (u.phase, u.port.done)

/-- Where the receivers stand. -/
def State.stages (s : State) : List (ReceiverPhase × Option Completion) := s.rcv.map ReceiverUnit.stage

/-- The interrupt side: the line and where the sender and the receivers stand. -/
def State.interrupt (s : State) : Bool × SenderPhase × List (ReceiverPhase × Option Completion) :=
  (s.intr, s.snd.phase, s.stages)

theorem State.interrupt_eq_iff :
    t.interrupt = s.interrupt ↔ t.intr = s.intr ∧ t.snd.phase = s.snd.phase ∧ t.stages = s.stages := by
  simp [State.interrupt]

theorem State.wake_stages (s : State) (w : Susp) : (s.wake w).stages = s.stages := by
  rw [State.stages, State.wake_rcv, List.map_map]; rfl

theorem State.wake_interrupt (s : State) (w : Susp) : (s.wake w).interrupt = s.interrupt :=
  State.interrupt_eq_iff.mpr ⟨rfl, rfl, s.wake_stages w⟩

theorem State.advance_interrupt (s : State) (n : Nat) : (s.advance n).interrupt = s.interrupt := by
  refine State.interrupt_eq_iff.mpr ⟨rfl, rfl, ?_⟩
  rw [State.stages, State.advance_rcv, List.map_map]
  refine List.map_congr_left fun v _ => ?_
  obtain ⟨p, hp, -⟩ := ReceiverUnit.sample_eq s.cfg s.intr s.now n v
  rw [Function.comp_apply, hp]
  rfl

theorem State.withRcv_stages {u v : ReceiverUnit} (hj : s.rcv[j]? = some u) (hv : v.stage = u.stage) :
    (s.withRcv j v).stages = s.stages := by
  obtain ⟨hlt, rfl⟩ := List.getElem?_eq_some_iff.mp hj
  rw [State.stages, State.withRcv_rcv, List.map_set, hv,
    ← List.getElem_map ReceiverUnit.stage (h := by simpa using hlt), List.set_getElem_self]
  rfl

/-- A command presented on a port changes no completion indication. -/
theorem State.present_interrupt (s : State) (u : UnitId) (c : Command) : (s.present u c).interrupt = s.interrupt := by
  change (s.popCommand u).interrupt = s.interrupt
  unfold State.popCommand
  split
  case h_1 | h_3 => rfl
  case h_2 k => split <;> rfl
  case h_4 j =>
    split
    case h_1 v hj => exact State.interrupt_eq_iff.mpr ⟨rfl, rfl, State.withRcv_stages hj rfl⟩
    case h_2 => rfl

theorem State.MasterWrites.interrupt (h : s.MasterWrites t) : t.interrupt = s.interrupt := by
  cases h with
  | own | ready | mwPin | mwTxn | mrPin | mrTxn => rfl
  | wake => exact s.wake_interrupt _

theorem State.LinkWrites.interrupt {p : MasterPhase} (h : s.LinkWrites p t) : t.interrupt = s.interrupt := by
  cases h with
  | once x hx hw => exact hw.interrupt
  | loop r hl hr hw => exact hw.interrupt.trans hr.interrupt

theorem State.SlaveWrites.interrupt {k : Nat} {u v : SlaveUnit} (h : s.SlaveWrites k u v t) :
    t.interrupt = s.interrupt := by
  cases h with
  | own | ack | capture | drivePin | driveTxn => rfl
  | wake => exact s.wake_interrupt _

theorem State.SlaveLinkWrites.interrupt {k : Nat} {u v : SlaveUnit} {dir : SlaveDir}
    (h : s.SlaveLinkWrites k u dir v t) : t.interrupt = s.interrupt := by
  cases h with
  | once x hx hw => exact hw.interrupt
  | loop b w hp hb hs hd hw => exact hw.interrupt.trans hb.interrupt

/-- An operation of a bus unit leaves the interrupt side. -/
theorem exec_interrupt {i : Instr} (hs : i ≠ .isend) (hr : i ≠ .irecv) (h : exec i s = .next t) :
    t.interrupt = s.interrupt := by
  cases i with
  | mw a d =>
    obtain ⟨hw, -⟩ := execMw_writes h
    exact hw.interrupt
  | mr a =>
    obtain ⟨hw, -⟩ := execMr_writes h
    exact hw.interrupt
  | lmw a n =>
    obtain ⟨hw, -⟩ := execLmw_writes h
    exact hw.interrupt
  | lmr a n =>
    obtain ⟨hw, -⟩ := execLmr_writes h
    exact hw.interrupt
  | sr a =>
    obtain ⟨k, u, hsel, hk, -⟩ := execSr_next.mp h
    obtain ⟨v, hw, -⟩ := execSr_writes hsel hk h
    exact hw.interrupt
  | sw a d =>
    obtain ⟨k, u, hsel, hk, -⟩ := execSw_next.mp h
    obtain ⟨v, hw, -⟩ := execSw_writes hsel hk h
    exact hw.interrupt
  | lsw a n =>
    obtain ⟨k, u, hsel, hk, -⟩ := execLsw_next.mp h
    obtain ⟨v, hw, -⟩ := execLsw_moves hsel hk h
    exact hw.interrupt
  | lsr a n =>
    obtain ⟨k, u, hsel, hk, -⟩ := execLsr_next.mp h
    obtain ⟨v, hw, -⟩ := execLsr_moves hsel hk h
    exact hw.interrupt
  | isend => exact absurd rfl hs
  | irecv => exact absurd rfl hr

/-! ## The pulse -/

theorem State.PulseShown.of_interrupt (h : s.PulseShown) (ht : t.interrupt = s.interrupt) : t.PulseShown := by
  obtain ⟨hi, hp, -⟩ := State.interrupt_eq_iff.mp ht
  rw [State.PulseShown, hi, hp]
  exact h

theorem exec_pulseShown {i : Instr} (h : s.PulseShown) (he : exec i s = .next t) : t.PulseShown := by
  by_cases hs : i = .isend
  · subst hs
    obtain ⟨b, v, rfl | ⟨-, -, rfl⟩, -, hb⟩ := execIsend_writes he
    · exact hb h
    · exact hb h
  by_cases hr : i = .irecv
  · subst hr
    obtain ⟨j, u, v, -, -, rfl, -⟩ := execIrecv_writes he
    exact h
  exact h.of_interrupt (exec_interrupt hs hr he)

/-- Settles O56: ISEND keeps the line and its phase together, and nothing else writes either. -/
theorem everyStepKeepsThePulse : Obligations.EveryStepKeepsThePulse := fun _ _ h hs =>
  step_keeps State.PulseShown (fun _ _ _ _ h => h) (fun s u c h _ => h.of_interrupt (s.present_interrupt u c))
    (fun _ _ _ h he => exec_pulseShown h he) (fun s n h _ _ => h.of_interrupt (s.advance_interrupt n)) h hs

/-! ## An armed receiver -/

theorem State.stage_of_interrupt (h : t.interrupt = s.interrupt) : t.stages[j]? = s.stages[j]? := by
  obtain ⟨-, -, hr⟩ := State.interrupt_eq_iff.mp h
  exact congrArg (·[j]?) hr

/-- An operation of another unit leaves a receiver where it stands. -/
theorem exec_keeps_stage {i : Instr} (h : exec i s = .next t) (hsel : s.sel ≠ .ir j) :
    t.stages[j]? = s.stages[j]? := by
  by_cases hs : i = .isend
  · subst hs
    obtain ⟨b, v, rfl | ⟨-, -, rfl⟩, -⟩ := execIsend_writes h
    · rfl
    · exact congrArg (·[j]?) (s.wake_stages .edge)
  by_cases hr : i = .irecv
  · subst hr
    obtain ⟨m, u, v, hm, -, rfl, -⟩ := execIrecv_writes h
    have hne : m ≠ j := fun he => hsel (he ▸ hm)
    simp [State.stages, hne]
  exact State.stage_of_interrupt (exec_interrupt hs hr h)

/-- A step leaves a receiver that carries out IRECV and is not enabled where it stands. -/
theorem step_keeps_stage (h : step s = .next t) (hc : (s.current (.ir j)).isSome = true)
    (he : s.enabled (.ir j) = false) : t.stages[j]? = s.stages[j]? := by
  obtain ⟨-, ⟨u, r, hch, hm⟩ | ⟨-, n, -, rfl⟩⟩ := step_next.mp h
  · obtain ⟨hu, ag, tk, rfl⟩ := State.choose_some hch
    have hne : u ≠ .ir j := by
      rintro rfl
      obtain ⟨-, hen | ⟨c, hd⟩⟩ := State.mem_moves_iff.mp hu
      · cases he.symm.trans hen
      · simp [State.dueCommand, hc] at hd
    rcases move_next.mp hm with ⟨i, -, hx⟩ | ⟨-, c, i, -, -, hx⟩
    · exact (exec_keeps_stage hx hne :)
    · exact (exec_keeps_stage hx hne).trans
        (State.stage_of_interrupt (State.present_interrupt { s with agenda := ag, tick := tk } u c))
  · exact State.stage_of_interrupt (s.advance_interrupt n)

/-- Settles O44: only a rising edge ends the wait, and a receiver that waits for it is not enabled. -/
theorem armingInMidPulseWaitsForTheNextPulse : Obligations.ArmingInMidPulseWaitsForTheNextPulse := by
  intro s t j u hj hp hw hi h
  have hc : (s.current (.ir j)).isSome = true := by simp [State.current, hj, ReceiverUnit.current, hp]
  have hsusp : s.suspOf (.ir j) = some .edge := by simp [State.suspOf, hj, hw]
  have he : s.enabled (.ir j) = false := by simp [State.enabled, hsusp, Susp.met]
  have hstage : t.stages[j]? = some u.stage := (step_keeps_stage h hc he).trans (by simp [State.stages, hj])
  obtain ⟨v, hv, hst⟩ : ∃ v, t.rcv[j]? = some v ∧ v.stage = u.stage := by simpa [State.stages] using hstage
  obtain ⟨hphase, hdone⟩ := Prod.mk.inj hst
  have hkeep : t.suspOf (.ir j) = some .edge := by
    obtain ⟨-, hedge, -⟩ := onlyTheConditionEndsAWait s t (.ir j) h hc
    exact (hedge hsusp).resolve_right fun ⟨h0, _⟩ => by simp [hi] at h0
  exact ⟨v, hv, hphase.trans hp, by simpa [State.suspOf, hv] using hkeep, hdone⟩

end Sys2Proof.Machine
end

section
/-! After reset the run is over (70_reset_and_hazards.md R161; 40_execution_model.md R90): every unit rests and none is
suspended, so no move is possible and no event is to come. -/

namespace Sys2Proof.Machine

/-- After reset every unit is idle and the host has nothing to issue to it. -/
theorem State.resetWith_rests {c : Config} {u : UnitId} (h : u ∈ (State.resetWith c).units) :
    (State.resetWith c).Rests u := by
  have hport := State.portOf_isSome h
  cases u with
  | mu | is => exact ⟨rfl, rfl⟩
  | su k =>
    obtain ⟨v, hv⟩ := Option.isSome_iff_exists.mp (Option.isSome_map.symm.trans hport)
    obtain rfl := State.resetWith_su (List.mem_of_getElem? hv)
    simp only [State.Rests, State.current, State.portOf, hv]
    exact ⟨rfl, rfl⟩
  | ir j =>
    obtain ⟨v, hv⟩ := Option.isSome_iff_exists.mp (Option.isSome_map.symm.trans hport)
    obtain rfl := State.resetWith_rcv (List.mem_of_getElem? hv)
    simp only [State.Rests, State.current, State.portOf, hv]
    exact ⟨rfl, rfl⟩

/-- Nothing is to happen where every unit rests and no `waitfor` runs. -/
theorem State.eventTimes_eq_nil {s : State} (hr : ∀ u ∈ s.units, s.Rests u)
    (hw : ∀ u t, s.suspOf u ≠ some (.until t)) : s.eventTimes = [] := by
  refine List.flatMap_eq_nil_iff.mpr fun u hu => List.append_eq_nil_iff.mpr ⟨?_, ?_⟩
  · split
    · next t ht => exact absurd ht (hw u t)
    · rfl
  · obtain ⟨-, htodo⟩ := hr u hu
    obtain ⟨p, hp, hnil⟩ := Option.map_eq_some_iff.mp htodo
    simp [hp, hnil]

theorem resetWith_quiescent (c : Config) : (State.resetWith c).Quiescent := by
  have hevents : (State.resetWith c).eventTimes = [] :=
    State.eventTimes_eq_nil (fun _ => State.resetWith_rests) fun u t h => nomatch State.resetWith_suspOf h
  refine ⟨State.moves_eq_nil_iff.mpr fun u hu => ?_, by rw [State.nextTime, hevents, leastAbove]⟩
  simpa [not_or, Option.eq_none_iff_forall_ne_some] using (State.resetWith_rests hu).immovable

/-- Settles O7: the reset state is quiescent and every unit rests, so that the step reports the run finished (O17). -/
theorem nothingHappensAfterReset : Obligations.NothingHappensAfterReset := by
  intro c hl
  obtain ⟨hmoves, htime⟩ := resetWith_quiescent c
  obtain ⟨-, hfinished, -⟩ := finishedOrStuck (State.resetWith c) hl
  exact ⟨hmoves, hfinished ⟨hmoves, htime⟩ fun _ => State.resetWith_rests⟩

end Sys2Proof.Machine
end

section
/-! What the spec gives no meaning (70_reset_and_hazards.md R171, R172; 93_implementation_defined.md U1 to U3): the pass of a
slave-side unit that looks at the address, said once for both variants, and the sample of MR. -/

namespace Sys2Proof.Machine

variable {s : State} {u : SlaveUnit} {x : Option Addr} {y : Option Word} {cx cy : CellName}

/-! ## A match that has no meaning -/

theorem takeMatch_served {dir : SlaveDir} {rest : State → State} (h : s.served = true) :
    takeMatch dir rest s = .refused .twoMatched :=
  if_pos h

theorem takeMatch_wrongDirection {dir other : SlaveDir} {rest : State → State} (h : s.served = false)
    (hp : s.mu.pairs = some other) (hne : other ≠ dir) : takeMatch dir rest s = .refused .wrongDirection := by
  simp [takeMatch, h, hp, hne]

/-! ## The address test -/

/-- The address test and the matched pass of either variant, for a unit that awaits address `a` in direction `dir`, over the
cells `x` and `y` of the names `cx` and `cy`: what a capture, a drive and a mismatch go on with is left open. -/
def addressTest (cx cy : CellName) (x : Option Addr) (y : Option Word) (a : Addr) (dir : SlaveDir)
    (capture : Word → State → State) (drive : State → State) (mismatch : Answer) (s : State) : Answer :=
  readCell cx x fun b =>
    if b = a then
      match dir with
      | .capture => readCell cy y fun w => takeMatch .capture (capture w) s
      | .drive => takeMatch .drive drive s
    else mismatch

theorem testPin_eq_addressTest (k : Nat) (u : SlaveUnit) (s : State) :
    testPin k u s = addressTest .address .data s.bus.address s.bus.data u.a u.dir
      (fun w t => t.suWaitfor k { u with q := w } .service t.cfg.tSlave)
      (fun t => (t.driveData u.d).suWaitfor k u .service t.cfg.tSlave)
      (.next (s.suWaitfor k u .backoff s.cfg.tBackoff)) s := rfl

theorem testTxn_eq_addressTest (k : Nat) (u : SlaveUnit) (s : State) :
    testTxn k u s = addressTest .pendingAddress .pendingData s.txn.pendingAddress s.txn.pendingData u.a u.dir
      (fun w t => t.suWaitfor k { u with q := w } .txnService t.cfg.tSlave)
      (fun t => (t.drivePendingData u.d).suWaitfor k u .txnService t.cfg.tSlave)
      (.next (s.suSuspend k u .txnWaitReady (.notice .readyNotice))) s := rfl

/-- The answer `r` is that of the address test of unit `u`, which the segment begins with its suspension taken out of the
state. -/
def State.TestsAddress (s : State) (u : SlaveUnit) (cx cy : CellName) (x : Option Addr) (y : Option Word)
    (r : Answer) : Prop :=
  ∃ k v capture drive mismatch, r = addressTest cx cy x y u.a u.dir capture drive mismatch (s.withSu k v)

theorem exec_testsAddress_pin {k : Nat} {i : Instr} (hk : s.su[k]? = some u) (h : s.Runs (.su k) i)
    (hv : s.cfg.variant = .pin) (hready : s.bus.ready = true)
    (hp : u.phase = .word .start ∨ u.phase = .word .waitReady ∨ u.phase = .word .backoff) :
    s.TestsAddress u .address .data s.bus.address s.bus.data (exec i s) := by
  have he : exec i s = testPin k { u with susp := .none } (s.withSu k { u with susp := .none }) :=
    (exec_suAwaitReady hv hk hp h).trans (if_pos hready)
  exact ⟨k, _, _, _, _, he.trans (testPin_eq_addressTest ..)⟩

theorem exec_testsAddress_txn {k : Nat} {i : Instr} (hk : s.su[k]? = some u) (h : s.Runs (.su k) i)
    (hp : u.phase = .word .txnWaitReady) :
    s.TestsAddress u .pendingAddress .pendingData s.txn.pendingAddress s.txn.pendingData (exec i s) := by
  obtain ⟨ret, he⟩ := exec_slaveSegment hk hp h
  exact ⟨k, _, _, _, _, he.trans (testTxn_eq_addressTest ..)⟩

namespace State.TestsAddress

variable {r : Answer}

theorem undrivenAddress (h : s.TestsAddress u cx cy x y r) (hx : x = none) : r = .fault (.unwritten cx) := by
  obtain ⟨k, v, capture, drive, mismatch, rfl⟩ := h
  rw [hx]; rfl

/-- A capture reads the word before it takes the match. -/
theorem undrivenData (h : s.TestsAddress u cx cy x y r) (hx : x = some u.a) (hd : u.dir = .capture) (hy : y = none) :
    r = .fault (.unwritten cy) := by
  obtain ⟨k, v, capture, drive, mismatch, rfl⟩ := h
  simp [addressTest, readCell, hx, hd, hy]

/-- With the address matched, and the word there that a capture reads, either direction takes the match. -/
theorem takesMatch (h : s.TestsAddress u cx cy x y r) (hx : x = some u.a) (hy : u.dir = .capture → y.isSome = true) :
    ∃ k v rest, r = takeMatch u.dir rest (s.withSu k v) := by
  obtain ⟨k, v, capture, drive, mismatch, rfl⟩ := h
  refine ⟨k, v, ?_⟩
  cases hd : u.dir with
  | capture =>
    obtain ⟨w, rfl⟩ := Option.isSome_iff_exists.mp (hy hd)
    exact ⟨capture w, by simp [addressTest, readCell, hx]⟩
  | drive => exact ⟨drive, by simp [addressTest, readCell, hx]⟩

/-- The two matches that are refused (70_reset_and_hazards.md R171, R172). -/
theorem illPaired {other : SlaveDir} (h : s.TestsAddress u cx cy x y r) (hx : x = some u.a)
    (hy : u.dir = .capture → y.isSome = true) (hne : other ≠ u.dir) :
    (s.served = true → r = .refused .twoMatched) ∧
    (s.served = false → s.mu.pairs = some other → r = .refused .wrongDirection) := by
  obtain ⟨k, v, rest, rfl⟩ := h.takesMatch hx hy
  exact ⟨fun hs => takeMatch_served hs, fun hs hm => takeMatch_wrongDirection hs hm hne⟩

end State.TestsAddress

/-! ## The sample of MR -/

theorem mrSample_undriven (c : CellName) (p : MrPoint) (s : State) : mrSample c none p s = .fault (.unwritten c) := rfl

theorem mrAwaitAck_undriven (ha : s.bus.ack = true) (hd : s.bus.data = none) :
    mrAwaitAck s = .fault (.unwritten .data) := by
  have h : mrAwaitAck s = mrSample .data s.bus.data .hold (s.withMu { s.mu with phase := .mr .waitAck }) := if_pos ha
  rw [h, hd, mrSample_undriven]

/-- MR, issued or called by LMR, is at each of its points the segment of MR. -/
theorem exec_mrSegment {i : Instr} {p : MrPoint} (h : s.Runs .mu i) (hi : (∃ a, i = .mr a) ∨ ∃ a n, i = .lmr a n)
    (hp : s.mu.phase = .mr p) : ∃ ret, exec i s = mrSegment ret p (s.withMu { s.mu with susp := .none }) := by
  rcases hi with ⟨a, rfl⟩ | ⟨a, n, rfl⟩
  · exact ⟨_, execMr_run h hp⟩
  · exact ⟨_, execLmr_run h hp⟩

/-- Settles O27: the address test reads its cells before it takes the match, and MR samples in the segment that sees
`ack` 1 or is woken. -/
theorem illPairedTransfersHaveNoMeaning : Obligations.IllPairedTransfersHaveNoMeaning := by
  refine ⟨fun s k u i x y cx cy hk h hpoint => ?_, fun s i h hi => ⟨fun hp ha hd => ?_, fun hp hd => ?_⟩⟩
  · have ht : s.TestsAddress u cx cy x y (exec i s) := by
      rcases hpoint with ⟨hv, hready, hp, rfl, rfl, rfl, rfl⟩ | ⟨-, hp, rfl, rfl, rfl, rfl⟩
      · exact exec_testsAddress_pin hk h hv hready hp
      · exact exec_testsAddress_txn hk h hp
    refine ⟨ht.undrivenAddress, ht.undrivenData, fun hx hd hy => ?_, fun hx hd => ?_⟩
    · exact ht.illPaired hx (fun _ => hy) (by simp [hd])
    · exact ht.illPaired hx (by simp [hd]) (by simp [hd])
  · rcases hp with hp | hp
    · obtain ⟨ret, he⟩ := exec_mrSegment h hi hp
      exact he.trans (mrAwaitAck_undriven ha hd)
    · obtain ⟨ret, he⟩ := exec_mrSegment h hi hp
      exact he.trans (mrAwaitAck_undriven ha hd)
  · obtain ⟨ret, he⟩ := exec_mrSegment h hi hp
    refine he.trans ?_
    rw [mrSegment, State.withMu_txn, hd, mrSample_undriven]

end Sys2Proof.Machine
end
